-- ==== Sys2Proof/Word.lean ====
section
/-! DEFINITION. The bit-vector types of the hardware: every value is unsigned (spec/00_scope.md R7). -/

namespace Sys2Proof

/-- A memory byte, a general register, a timer counter, the literal `nn` (R21, R33, R50, R71). -/
abbrev Byte := BitVec 8

/-- An instruction word, the registers `I` and `pc`, a stack entry (R24, R25, R27, R70). -/
abbrev Word := BitVec 16

/-- A register number, the literal `n`, a key number (R71, R197). -/
abbrev Nibble := BitVec 4

/-- The literal `nnn`, an address of the memory load port (R71, R199). -/
abbrev Addr12 := BitVec 12

/-- The halt information `hinfo` (R35). -/
abbrev HaltInfo := BitVec 17

/-- The framebuffer: pixel (x, y) is bit y*64+x (R32, R199). -/
abbrev Framebuffer := BitVec 2048

end Sys2Proof
end

