-- ==== Sys2Proof/Syntax.lean ====
section
/-! DEFINITION. The instructions: one constructor per row of spec/opcode_table.json, in the table's order
(spec/30_encoding.md R80). `Unrecognized` is no row and no constructor: it is the Decoder's rejection. -/

namespace Sys2Proof

/-- The 34 instruction variants with the fields each one uses (R71, R72, R80, R82). A field has the width the
encoding gives it, so every term is an instruction the encoding admits: "every value is a legal register number"
(R73). -/
inductive Instr where
  /-- 00E0 `CLS` (R160). -/
  | cls
  /-- 00EE `RET` (R110). -/
  | ret
  /-- 1NNN `JP nnn` (R111). -/
  | jp (nnn : Addr12)
  /-- 2NNN `CALL nnn` (R112). -/
  | call (nnn : Addr12)
  /-- 3XNN `SE Vx, nn` (R113). -/
  | seImm (x : Nibble) (nn : Byte)
  /-- 4XNN `SNE Vx, nn` (R114). -/
  | sneImm (x : Nibble) (nn : Byte)
  /-- 5XY0 `SE Vx, Vy` (R115). -/
  | seReg (x y : Nibble)
  /-- 6XNN `LD Vx, nn` (R130). -/
  | ldImm (x : Nibble) (nn : Byte)
  /-- 7XNN `ADD Vx, nn` (R131). -/
  | addImm (x : Nibble) (nn : Byte)
  /-- 8XY0 `LD Vx, Vy` (R132). -/
  | ldReg (x y : Nibble)
  /-- 8XY1 `OR Vx, Vy` (R133). -/
  | orReg (x y : Nibble)
  /-- 8XY2 `AND Vx, Vy` (R134). -/
  | andReg (x y : Nibble)
  /-- 8XY3 `XOR Vx, Vy` (R135). -/
  | xorReg (x y : Nibble)
  /-- 8XY4 `ADD Vx, Vy` (R136). -/
  | addReg (x y : Nibble)
  /-- 8XY5 `SUB Vx, Vy` (R137). -/
  | sub (x y : Nibble)
  /-- 8XY6 `SHR Vx, Vy` (R138); `y` is an operand under `SHIFT_USES_VY`. -/
  | shr (x y : Nibble)
  /-- 8XY7 `SUBN Vx, Vy` (R139). -/
  | subn (x y : Nibble)
  /-- 8XYE `SHL Vx, Vy` (R140); `y` is an operand under `SHIFT_USES_VY`. -/
  | shl (x y : Nibble)
  /-- 9XY0 `SNE Vx, Vy` (R116). -/
  | sneReg (x y : Nibble)
  /-- ANNN `LD I, nnn` (R150). -/
  | ldI (nnn : Addr12)
  /-- BNNN `JP V0, nnn` (R117). -/
  | jpV0 (nnn : Addr12)
  /-- CXNN `RND Vx, nn` (R141). -/
  | rnd (x : Nibble) (nn : Byte)
  /-- DXYN `DRW Vx, Vy, n` (R161). -/
  | drw (x y n : Nibble)
  /-- EX9E `SKP Vx` (R173). -/
  | skp (x : Nibble)
  /-- EXA1 `SKNP Vx` (R174). -/
  | sknp (x : Nibble)
  /-- FX07 `LD Vx, DT` (R170). -/
  | ldVxDt (x : Nibble)
  /-- FX0A `LD Vx, K` (R175). -/
  | ldK (x : Nibble)
  /-- FX15 `LD DT, Vx` (R171). -/
  | ldDtVx (x : Nibble)
  /-- FX18 `LD ST, Vx` (R172). -/
  | ldStVx (x : Nibble)
  /-- FX1E `ADD I, Vx` (R151). -/
  | addI (x : Nibble)
  /-- FX29 `LD F, Vx` (R152). -/
  | ldF (x : Nibble)
  /-- FX33 `LD B, Vx` (R153). -/
  | ldB (x : Nibble)
  /-- FX55 `LD [I], Vx` (R154); `x` is a count. -/
  | stRegs (x : Nibble)
  /-- FX65 `LD Vx, [I]` (R155); `x` is a count. -/
  | ldRegs (x : Nibble)
  deriving DecidableEq, Repr

end Sys2Proof
end

