-- ==== Sys2Proof/WellFormed.lean ====
section
/-! DEFINITION. What must hold of terms a host supplies. An `Instr` needs no check: its fields have the widths
of the encoding, and every value of every field is legal (spec/30_encoding.md R73). The checks are those of the
boot contract (spec/70_reset_and_hazards.md R214, R215): the program image fits, the font table is whole. -/

namespace Sys2Proof

/-- "Loading fails if the image does not fit in the remaining memory (4096 - 0x200 bytes)" (R58, R214). -/
def imageFits (image : List Byte) : Bool := decide (image.length ≤ 4096 - 0x200)

/-- The parameter `FONT` has 80 bytes, 16 glyphs of 5 (R5, R59, R215). -/
def fontWhole (font : List Byte) : Bool := font.length == 80

end Sys2Proof
end

