-- ==== Sys2Proof/Decode.lean ====
section
/-! DEFINITION. The Decoder and its encoder (spec/30_encoding.md). The Decoder is total, stateless and rejects
by the name `unrecognized` (R74); the encoder is written from the same table (R80). -/

namespace Sys2Proof

/-- The field `op`, bits 15:12 (R71). -/
def opField (w : Word) : Nibble := w.extractLsb' 12 4
/-- The field `x`, bits 11:8 (R71). -/
def xField (w : Word) : Nibble := w.extractLsb' 8 4
/-- The field `y`, bits 7:4 (R71). -/
def yField (w : Word) : Nibble := w.extractLsb' 4 4
/-- The field `n`, bits 3:0 (R71). -/
def nField (w : Word) : Nibble := w.extractLsb' 0 4
/-- The field `nn`, bits 7:0 (R71). -/
def nnField (w : Word) : Byte := w.extractLsb' 0 8
/-- The field `nnn`, bits 11:0 (R71). -/
def nnnField (w : Word) : Addr12 := w.extractLsb' 0 12

/-- The Decoder's result: one of the 34 variants, or `Unrecognized` (R74, R78). -/
inductive Decoded where
  | instr (i : Instr)
  /-- The word matches no row of R80. -/
  | unrecognized (w : Word)
  deriving DecidableEq, Repr

/-- Family 8, selected by `n` (R75, R77). -/
def decodeFamily8 (w : Word) : Decoded :=
  match (nField w).toNat with
  | 0x0 => .instr (.ldReg (xField w) (yField w))
  | 0x1 => .instr (.orReg (xField w) (yField w))
  | 0x2 => .instr (.andReg (xField w) (yField w))
  | 0x3 => .instr (.xorReg (xField w) (yField w))
  | 0x4 => .instr (.addReg (xField w) (yField w))
  | 0x5 => .instr (.sub (xField w) (yField w))
  | 0x6 => .instr (.shr (xField w) (yField w))
  | 0x7 => .instr (.subn (xField w) (yField w))
  | 0xE => .instr (.shl (xField w) (yField w))
  | _ => .unrecognized w

/-- Family E, selected by `nn` (R75, R77). -/
def decodeFamilyE (w : Word) : Decoded :=
  match (nnField w).toNat with
  | 0x9E => .instr (.skp (xField w))
  | 0xA1 => .instr (.sknp (xField w))
  | _ => .unrecognized w

/-- Family F, selected by `nn` (R75, R77). -/
def decodeFamilyF (w : Word) : Decoded :=
  match (nnField w).toNat with
  | 0x07 => .instr (.ldVxDt (xField w))
  | 0x0A => .instr (.ldK (xField w))
  | 0x15 => .instr (.ldDtVx (xField w))
  | 0x18 => .instr (.ldStVx (xField w))
  | 0x1E => .instr (.addI (xField w))
  | 0x29 => .instr (.ldF (xField w))
  | 0x33 => .instr (.ldB (xField w))
  | 0x55 => .instr (.stRegs (xField w))
  | 0x65 => .instr (.ldRegs (xField w))
  | _ => .unrecognized w

/-- The whole Decoder (R75): families by the high nibble; family 0 by the full word (R76); families 5 and 9 with
`n = 0` only (R79, the spec's D19); families 8, E, F by their secondary selectors (R77). -/
def decode (w : Word) : Decoded :=
  match (opField w).toNat with
  | 0x0 => if w = 0x00E0#16 then .instr .cls else if w = 0x00EE#16 then .instr .ret else .unrecognized w
  | 0x1 => .instr (.jp (nnnField w))
  | 0x2 => .instr (.call (nnnField w))
  | 0x3 => .instr (.seImm (xField w) (nnField w))
  | 0x4 => .instr (.sneImm (xField w) (nnField w))
  | 0x5 => if nField w = 0#4 then .instr (.seReg (xField w) (yField w)) else .unrecognized w
  | 0x6 => .instr (.ldImm (xField w) (nnField w))
  | 0x7 => .instr (.addImm (xField w) (nnField w))
  | 0x8 => decodeFamily8 w
  | 0x9 => if nField w = 0#4 then .instr (.sneReg (xField w) (yField w)) else .unrecognized w
  | 0xA => .instr (.ldI (nnnField w))
  | 0xB => .instr (.jpV0 (nnnField w))
  | 0xC => .instr (.rnd (xField w) (nnField w))
  | 0xD => .instr (.drw (xField w) (yField w) (nField w))
  | 0xE => decodeFamilyE w
  | _ => decodeFamilyF w

/-- Format NNN (R72). -/
def wordNNN (op : Nibble) (nnn : Addr12) : Word := op ++ nnn
/-- Formats XNN and X (R72): in format X the byte is the fixed selector. -/
def wordXNN (op x : Nibble) (nn : Byte) : Word := op ++ x ++ nn
/-- Formats XYN and XY (R72): in format XY the last nibble is the fixed selector. -/
def wordXYN (op x y n : Nibble) : Word := op ++ x ++ y ++ n

/-- The word of an instruction, `match | fields` (R80, R82). -/
def encode : Instr → Word
  | .cls => 0x00E0#16
  | .ret => 0x00EE#16
  | .jp nnn => wordNNN 0x1#4 nnn
  | .call nnn => wordNNN 0x2#4 nnn
  | .seImm x nn => wordXNN 0x3#4 x nn
  | .sneImm x nn => wordXNN 0x4#4 x nn
  | .seReg x y => wordXYN 0x5#4 x y 0x0#4
  | .ldImm x nn => wordXNN 0x6#4 x nn
  | .addImm x nn => wordXNN 0x7#4 x nn
  | .ldReg x y => wordXYN 0x8#4 x y 0x0#4
  | .orReg x y => wordXYN 0x8#4 x y 0x1#4
  | .andReg x y => wordXYN 0x8#4 x y 0x2#4
  | .xorReg x y => wordXYN 0x8#4 x y 0x3#4
  | .addReg x y => wordXYN 0x8#4 x y 0x4#4
  | .sub x y => wordXYN 0x8#4 x y 0x5#4
  | .shr x y => wordXYN 0x8#4 x y 0x6#4
  | .subn x y => wordXYN 0x8#4 x y 0x7#4
  | .shl x y => wordXYN 0x8#4 x y 0xE#4
  | .sneReg x y => wordXYN 0x9#4 x y 0x0#4
  | .ldI nnn => wordNNN 0xA#4 nnn
  | .jpV0 nnn => wordNNN 0xB#4 nnn
  | .rnd x nn => wordXNN 0xC#4 x nn
  | .drw x y n => wordXYN 0xD#4 x y n
  | .skp x => wordXNN 0xE#4 x 0x9E#8
  | .sknp x => wordXNN 0xE#4 x 0xA1#8
  | .ldVxDt x => wordXNN 0xF#4 x 0x07#8
  | .ldK x => wordXNN 0xF#4 x 0x0A#8
  | .ldDtVx x => wordXNN 0xF#4 x 0x15#8
  | .ldStVx x => wordXNN 0xF#4 x 0x18#8
  | .addI x => wordXNN 0xF#4 x 0x1E#8
  | .ldF x => wordXNN 0xF#4 x 0x29#8
  | .ldB x => wordXNN 0xF#4 x 0x33#8
  | .stRegs x => wordXNN 0xF#4 x 0x55#8
  | .ldRegs x => wordXNN 0xF#4 x 0x65#8

/-- The columns `mask` and `match` of an instruction's row (R80): a word `w` is the instruction exactly when
`w & mask = match`. -/
def tableRow : Instr → Word × Word
  | .cls => (0xFFFF#16, 0x00E0#16)
  | .ret => (0xFFFF#16, 0x00EE#16)
  | .jp _ => (0xF000#16, 0x1000#16)
  | .call _ => (0xF000#16, 0x2000#16)
  | .seImm _ _ => (0xF000#16, 0x3000#16)
  | .sneImm _ _ => (0xF000#16, 0x4000#16)
  | .seReg _ _ => (0xF00F#16, 0x5000#16)
  | .ldImm _ _ => (0xF000#16, 0x6000#16)
  | .addImm _ _ => (0xF000#16, 0x7000#16)
  | .ldReg _ _ => (0xF00F#16, 0x8000#16)
  | .orReg _ _ => (0xF00F#16, 0x8001#16)
  | .andReg _ _ => (0xF00F#16, 0x8002#16)
  | .xorReg _ _ => (0xF00F#16, 0x8003#16)
  | .addReg _ _ => (0xF00F#16, 0x8004#16)
  | .sub _ _ => (0xF00F#16, 0x8005#16)
  | .shr _ _ => (0xF00F#16, 0x8006#16)
  | .subn _ _ => (0xF00F#16, 0x8007#16)
  | .shl _ _ => (0xF00F#16, 0x800E#16)
  | .sneReg _ _ => (0xF00F#16, 0x9000#16)
  | .ldI _ => (0xF000#16, 0xA000#16)
  | .jpV0 _ => (0xF000#16, 0xB000#16)
  | .rnd _ _ => (0xF000#16, 0xC000#16)
  | .drw _ _ _ => (0xF000#16, 0xD000#16)
  | .skp _ => (0xF0FF#16, 0xE09E#16)
  | .sknp _ => (0xF0FF#16, 0xE0A1#16)
  | .ldVxDt _ => (0xF0FF#16, 0xF007#16)
  | .ldK _ => (0xF0FF#16, 0xF00A#16)
  | .ldDtVx _ => (0xF0FF#16, 0xF015#16)
  | .ldStVx _ => (0xF0FF#16, 0xF018#16)
  | .addI _ => (0xF0FF#16, 0xF01E#16)
  | .ldF _ => (0xF0FF#16, 0xF029#16)
  | .ldB _ => (0xF0FF#16, 0xF033#16)
  | .stRegs _ => (0xF0FF#16, 0xF055#16)
  | .ldRegs _ => (0xF0FF#16, 0xF065#16)

/-- A word as its two bytes in memory order, high byte first (R54, R70). -/
def bytesOfWord (w : Word) : List Byte := [w.extractLsb' 8 8, w.extractLsb' 0 8]

/-- Two bytes as a word, the byte at the lower address high: `mem[pc] ++ mem[pc+1]` (R54, R70). -/
def wordOfBytes (hi lo : Byte) : Word := hi ++ lo

/-- Why a run of bytes is no instruction. -/
inductive DecodeError where
  /-- The first two bytes are a word of no row: the Decoder's `Unrecognized` (R78). -/
  | unrecognized (w : Word)
  /-- Fewer than two bytes: an instruction is exactly 16 bits (R70). -/
  | truncated
  deriving DecidableEq, Repr

/-- The Decoder on a run of bytes: the first instruction and the rest (R70, R74). -/
def decodeBytes : List Byte → Except DecodeError (Instr × List Byte)
  | hi :: lo :: rest =>
    match decode (wordOfBytes hi lo) with
    | .instr i => .ok (i, rest)
    | .unrecognized w => .error (.unrecognized w)
  | _ => .error .truncated

/-- The 16-bit word whose low `nbits` bits are those of `w`, the bits above them zero. -/
def tableWord (nbits w : Nat) : Word := BitVec.ofNat 16 (w % 2 ^ nbits)

/-- The instruction the Decoder reads from the bits `w` of an opcode-table row of `nbits` bits. -/
def decodeTableWord (nbits w : Nat) : Option Instr :=
  match decodeBytes (bytesOfWord (tableWord nbits w)) with
  | .ok (i, _) => some i
  | .error _ => none

end Sys2Proof
end

