-- ==== Sys2Proof/Config.lean ====
section
/-! DEFINITION. What an implementation fixes (the parameters of spec/00_scope.md R5), the input signals of a step
(spec/60_exceptions.md R199), and the free value that stands for inputs nothing fixes. -/

namespace Sys2Proof

/-- The parameters `STACK_DEPTH` and `SHIFT_USES_VY` with their defaults (R5; the spec's D4, D17). `FONT` and `MEM0`
are contents of memory (log 6). -/
structure Config where
  /-- `STACK_DEPTH`: the capacity of the call stack; `none` is the unbounded stack of the reference software (R30). -/
  stackDepth : Option Nat := some 16
  /-- `SHIFT_USES_VY`: whether the shifts first copy `V[y]` to `V[x]` (R138, R140). -/
  shiftUsesVy : Bool := false
  deriving DecidableEq, Repr

/-- The input signals as one step sees them (R199): the levels sampled by the step, and the events that arrived since
the step before it (R106). DESIGN CHOICE, safe: log 1, log 3. -/
structure Inputs where
  /-- The reset line (R210). -/
  rst : Bool
  /-- The writes presented at the memory load port, in order; heeded only while `rst` is asserted (R212). -/
  load : List (Addr12 × Byte)
  /-- The number of `tick_dt` events (R191). -/
  dtTicks : Nat
  /-- The number of `tick_st` events (R192). -/
  stTicks : Nat
  /-- The key lines: bit `k` is 1 while key `k` is held (R197). -/
  keys : Word
  /-- The random byte presented to this step (R198). -/
  rnd : Byte
  deriving DecidableEq, Repr, Inhabited

/-- No reset, nothing to load, no ticks, no key held, the byte 0 presented. -/
def Inputs.quiet : Inputs :=
  { rst := false, load := [], dtTicks := 0, stTicks := 0, keys := 0#16, rnd := 0#8 }

/-- The `k`-th inputs that nothing fixes: a free value under no law (R141, R197, R106; the spec's D22, D25, D27).
No proof can see what it is (log 1). -/
opaque Config.freeInputs : Nat → Inputs

end Sys2Proof
end

