-- ==== Sys2Proof/Machine/State.lean ====
section
/-! DEFINITION. The architectural state of spec/10_state.md R20, the parameters and input signals a step reads, and
the reasons a run can stop. -/

namespace Sys2Proof.Machine

/-- Memory: the bytes that differ from the power-on contents, addresses strictly rising (R50; log 6). -/
abbrev Memory := List Host.Cell

/-- The values of `hcause` (R35, R180). Codes 6 and 7 are never produced, so the type lacks them (U15). -/
inductive HaltCause where
  /-- 0, running. -/
  | none
  /-- 1, `Unrecognized` was executed (R181). -/
  | decodeGap
  /-- 2, `RET` with an empty stack (R182). -/
  | stackUnderflow
  /-- 3, an access above address 4095 (R183). -/
  | memoryBound
  /-- 4, reserved for the loader; never set by the core (R185). -/
  | loadFailure
  /-- 5, `CALL` with a full stack (R184). -/
  | stackOverflow
  deriving DecidableEq, Repr

/-- Everything the specification gives the machine (R20), and the model's own fields below it. -/
structure State where
  /-- `mem`, 4096 bytes (R50). -/
  mem : Memory
  /-- `V[0..15]`; `V[15]` is VF (R21, R22). -/
  v : Vector Byte 16
  /-- `I` (R24). -/
  index : Word
  /-- `pc` (R25). -/
  pc : Word
  /-- The call stack, newest entry first; `sp` is its length (R27, R28). -/
  stack : List Word
  /-- `fb` (R32; log 12). -/
  fb : Framebuffer
  /-- `DT` (R33). -/
  dt : Byte
  /-- `ST` (R34). -/
  st : Byte
  /-- `halted` (R35). -/
  halted : Bool
  /-- `hcause` (R35). -/
  hcause : HaltCause
  /-- `hinfo` (R35). -/
  hinfo : HaltInfo
  /-- The parameters (R5); no step changes them. -/
  config : Config
  /-- The input signals the next step sees (R38, R199). -/
  inp : Inputs
  /-- The inputs of the steps after the next one, as far as they are fixed in advance; the model's own field (log 1). -/
  script : List Inputs
  /-- How many free inputs were drawn; the model's own field (log 1). -/
  inputCount : Nat
  /-- How many `frame` events were emitted since reset; the model's own record of an output (R104, log 11). -/
  frames : Nat
  /-- How many `sound` events were emitted since reset; the model's own record of an output (R193, log 11). -/
  sounds : Nat
  deriving DecidableEq, Repr

/-- Why the model stops with a fault. No step raises one: every exception of the core is a halt, a next state (R186). -/
inductive Fault where
  /-- Raised by `State.boot` when the image is too large: "execution never starts" (R185, R214). Safe. -/
  | loadFailure
  deriving DecidableEq, Repr

/-- Why the model refuses. No step refuses. -/
inductive Refusal where
  /-- Raised by an arm of `exec` whose instruction has no meaning yet; no arm is left so. Safe. -/
  | notModelled (mnemonic : String)
  deriving DecidableEq, Repr

/-- The machine when reset is released (R39, R40, R210): memory at its power-on contents (R215, R216), the parameters
at their defaults (R5). The last five fields are the model's own: no statement rests on their values here (log 2). -/
def State.reset : State where
  mem := []
  v := Vector.replicate 16 0#8
  index := 0#16
  pc := 0x0200#16
  stack := []
  fb := 0#2048
  dt := 0#8
  st := 0#8
  halted := false
  hcause := .none
  hinfo := 0#17
  config := {}
  inp := .quiet
  script := []
  inputCount := 0
  frames := 0
  sounds := 0

end Sys2Proof.Machine
end

