-- ==== Sys2Proof/Machine/Ops.lean ====
section
/-! DEFINITION. The named operations over memory, registers, the call stack and the framebuffer, and the one
operation that takes an exception. Every meaning is written over these. -/

namespace Sys2Proof.Machine

/-! ### Memory (spec/20_memory.md) -/

/-- The default of parameter `FONT`, five bytes a glyph (spec/93_implementation_defined.md G3; R59, the spec's D7). -/
def defaultFont : List Byte :=
  [0xF0#8, 0x90#8, 0x90#8, 0x90#8, 0xF0#8] ++ [0x20#8, 0x60#8, 0x20#8, 0x20#8, 0x70#8] ++
  [0xF0#8, 0x10#8, 0xF0#8, 0x80#8, 0xF0#8] ++ [0xF0#8, 0x10#8, 0xF0#8, 0x10#8, 0xF0#8] ++
  [0x90#8, 0x90#8, 0xF0#8, 0x10#8, 0x10#8] ++ [0xF0#8, 0x80#8, 0xF0#8, 0x10#8, 0xF0#8] ++
  [0xF0#8, 0x80#8, 0xF0#8, 0x90#8, 0xF0#8] ++ [0xF0#8, 0x10#8, 0x20#8, 0x40#8, 0x40#8] ++
  [0xF0#8, 0x90#8, 0xF0#8, 0x90#8, 0xF0#8] ++ [0xF0#8, 0x90#8, 0xF0#8, 0x10#8, 0xF0#8] ++
  [0xF0#8, 0x90#8, 0xF0#8, 0x90#8, 0x90#8] ++ [0xE0#8, 0x90#8, 0xE0#8, 0x90#8, 0xE0#8] ++
  [0xF0#8, 0x80#8, 0x80#8, 0x80#8, 0xF0#8] ++ [0xE0#8, 0x90#8, 0x90#8, 0x90#8, 0xE0#8] ++
  [0xF0#8, 0x80#8, 0xF0#8, 0x80#8, 0xF0#8] ++ [0xF0#8, 0x80#8, 0xF0#8, 0x80#8, 0x80#8]

/-- What an unlisted address reads as: the default font at 0x50..0x9F, 0 elsewhere (R57, R215, R216; the spec's D6,
D7). DESIGN CHOICE, unsafe: log 6. -/
def Memory.unlisted (a : Nat) : Byte :=
  if 0x50 ≤ a ∧ a ≤ 0x9F then defaultFont.getD (a - 0x50) 0#8 else 0#8

/-- The byte at an address. No instruction reads above 4095 (R51). -/
def Memory.read : Memory → Nat → Byte
  | [], a => Memory.unlisted a
  | (k, b) :: rest, a => if k = a then b else Memory.read rest a

/-- Put a byte in its place in the list, keeping the canonical form: no entry equals what its address reads as
unlisted. -/
def Memory.insert : Memory → Nat → Byte → Memory
  | [], a, b => if b = Memory.unlisted a then [] else [(a, b)]
  | (k, c) :: rest, a, b =>
    if a < k then (if b = Memory.unlisted a then (k, c) :: rest else (a, b) :: (k, c) :: rest)
    else if a = k then (if b = Memory.unlisted a then rest else (a, b) :: rest)
    else (k, c) :: Memory.insert rest a b

/-- "A write changes that byte and nothing else" (R53). There is no byte above 4095 to write (R51); the callers check
the bound first. -/
def Memory.write (m : Memory) (a : Nat) (b : Byte) : Memory :=
  if a ≤ 4095 then Memory.insert m a b else m

/-- Bytes written at rising addresses (R61: "in ascending address order"). -/
def Memory.writeBytes : Memory → Nat → List Byte → Memory
  | m, _, [] => m
  | m, a, b :: bs => Memory.writeBytes (Memory.write m a b) (a + 1) bs

/-- The canonical form from address `lo` up: addresses strictly rising, none above 4095, no entry equal to what its
address reads as unlisted. -/
def Memory.wfFrom : Nat → Memory → Bool
  | _, [] => true
  | lo, (k, b) :: rest => decide (lo ≤ k) && decide (k ≤ 4095) && (b != Memory.unlisted k) && Memory.wfFrom (k + 1) rest

/-- The canonical form of a memory. -/
def Memory.wf (m : Memory) : Bool := Memory.wfFrom 0 m

/-! ### Registers (spec/10_state.md) -/

/-- `V[r]` (R8, R21). -/
def State.reg (s : State) (r : Nibble) : Byte := s.v[r.toNat]'(r.isLt)

/-- `V[r] <- b` (R8, R21): no register is hardwired, none is read-only. -/
def State.setReg (s : State) (r : Nibble) (b : Byte) : State := { s with v := s.v.set r.toNat b r.isLt }

/-- The flag register VF (R22). -/
def regF : Nibble := 0xF#4

/-- `I <- w` (R24). -/
def State.setIndex (s : State) (w : Word) : State := { s with index := w }

/-- `pc <- w` (R25). -/
def State.setPc (s : State) (w : Word) : State := { s with pc := w }

/-- `DT <- b` (R33). -/
def State.setDt (s : State) (b : Byte) : State := { s with dt := b }

/-- `ST <- b` (R34). -/
def State.setSt (s : State) (b : Byte) : State := { s with st := b }

/-- The framebuffer replaced (R32). -/
def State.setFb (s : State) (f : Framebuffer) : State := { s with fb := f }

/-- The memory replaced (R50). -/
def State.setMem (s : State) (m : Memory) : State := { s with mem := m }

/-- The call stack replaced (R27). -/
def State.setStack (s : State) (l : List Word) : State := { s with stack := l }

/-- The byte of memory at an address. -/
def State.byteAt (s : State) (a : Nat) : Byte := s.mem.read a

/-- `pc <- pc + 2`: the advance of the cycle (R102) and the further 2 of a taken skip (R118). -/
def State.advance (s : State) : State := s.setPc (s.pc + 2#16)

/-! ### Taking an exception (spec/60_exceptions.md) -/

/-- The number of a cause in `hcause` (R35, R180). -/
def HaltCause.code : HaltCause → BitVec 3
  | .none => 0#3
  | .decodeGap => 1#3
  | .stackUnderflow => 2#3
  | .memoryBound => 3#3
  | .loadFailure => 4#3
  | .stackOverflow => 5#3

/-- Halt entry: "`raise C(info)` does exactly: `halted <- 1; hcause <- code(C); hinfo <- info`" (R186). There is no
return from it but reset (R189). -/
def State.raise (s : State) (c : HaltCause) (info : HaltInfo) : State :=
  { s with halted := true, hcause := c, hinfo := info }

/-- `hinfo` for causes 1, 2 and 5: "the instruction word zero-extended" (R35; log 13). -/
def wordInfo (w : Word) : HaltInfo := w.setWidth 17

/-- `hinfo` for cause 3: the lowest offending address of a range that starts at `a`, `max(a, 4096)` (R35, R52). -/
def boundInfo (a : Nat) : HaltInfo := BitVec.ofNat 17 (max a 4096)

/-- Raise MemoryBound if some of the `count` bytes from `base` up lie above 4095, otherwise go on: the check an
instruction makes before it changes any state (R53, R156, R161; the spec's D11). Addresses do not wrap (R51). -/
def State.checkRange (s : State) (base count : Nat) (body : State → State) : State :=
  if 0 < count ∧ 4095 < base + (count - 1) then s.raise .memoryBound (boundInfo base) else body s

/-! ### The call stack (spec/10_state.md R30, R31) -/

/-- Whether the stack holds `STACK_DEPTH` entries (R28); never, with the parameter unbounded (R30; log 7). -/
def State.stackFull (s : State) : Bool :=
  match s.config.stackDepth with
  | none => false
  | some d => decide (d ≤ s.stack.length)

/-- `push(v)` in the instruction of word `w`, then the rest of that instruction (R30). -/
def State.push (s : State) (w v : Word) (rest : State → State) : State :=
  if s.stackFull then s.raise .stackOverflow (wordInfo w) else rest (s.setStack (v :: s.stack))

/-- `pop()` in the instruction of word `w`, then the rest of that instruction with the popped value (R31). -/
def State.pop (s : State) (w : Word) (rest : Word → State → State) : State :=
  match s.stack with
  | [] => s.raise .stackUnderflow (wordInfo w)
  | v :: older => rest v (s.setStack older)

/-! ### Moving registers to and from memory (spec/43_index_memory.md) -/

/-- `V[0] .. V[x]` in ascending order (R154). -/
def State.regsUpTo (s : State) (x : Nibble) : List Byte :=
  (List.range (x.toNat + 1)).map fun k => s.reg (BitVec.ofNat 4 k)

/-- Bytes written at rising addresses from `a`. -/
def State.storeBytes (s : State) (a : Nat) (bs : List Byte) : State := s.setMem (s.mem.writeBytes a bs)

/-- `V[0] .. V[x]` loaded from the bytes at rising addresses from `a` (R155). -/
def State.loadRegs (s : State) (a : Nat) (x : Nibble) : State :=
  (List.range (x.toNat + 1)).foldl (fun t k => t.setReg (BitVec.ofNat 4 k) (s.byteAt (a + k))) s

/-! ### The framebuffer and the sprite engine (spec/44_display.md R161, R162) -/

/-- `fb[y][x]`: element `y*64+x` (R8, R32). -/
def pixel (f : Framebuffer) (x y : Nat) : Bool := f.getLsbD (y * 64 + x)

/-- `fb[y][x] <- fb[y][x] ^ 1`. -/
def flipPixel (f : Framebuffer) (x y : Nat) : Framebuffer := f ^^^ BitVec.twoPow 2048 (y * 64 + x)

/-- The screen being drawn on, and whether a set pixel became unset so far. -/
structure Canvas where
  fb : Framebuffer
  hit : Bool
  deriving DecidableEq, Repr

/-- Column `c` of a sprite row: bit `7 - c` of the byte, clipped at column 63 (R161, R162). -/
def drawColumn (x0 y : Nat) (b : Byte) (cv : Canvas) (c : Nat) : Canvas :=
  if x0 + c ≤ 63 ∧ b.getLsbD (7 - c) = true then
    { fb := flipPixel cv.fb (x0 + c) y, hit := cv.hit || pixel cv.fb (x0 + c) y }
  else cv

/-- The eight columns of a sprite row (R161). -/
def drawRow (x0 y : Nat) (b : Byte) (cv : Canvas) : Canvas := (List.range 8).foldl (drawColumn x0 y b) cv

/-- The rows `0 .. rows-1` of the sprite at `a`, from the origin downwards (R161). -/
def drawSprite (m : Memory) (a x0 y0 rows : Nat) (cv : Canvas) : Canvas :=
  (List.range rows).foldl (fun t r => drawRow x0 (y0 + r) (m.read (a + r)) t) cv

/-- The number of sprite rows drawn and read: `min(n, 32 - y0)` (R161, R162; the spec's D12). -/
def spriteRows (n : Nibble) (y0 : Nat) : Nat := min n.toNat (32 - y0)

/-! ### Inputs of an instruction (spec/45_timers_keys.md) -/

/-- `keys[k]`: whether key `k` is held at this step (R8, R197). -/
def State.keyHeld (s : State) (k : Nibble) : Bool := s.inp.keys.getLsbD k.toNat

/-- The lowest `k` with `keys[k] = 1`, if any (R175; the spec's D26). -/
def State.lowestKey (s : State) : Option Nat := (List.range 16).find? fun k => s.inp.keys.getLsbD k

/-! ### Outcomes -/

/-- Go on with `f` from a next state; a fault or a refusal stays. -/
def thenNext (o : Host.Outcome State Fault Refusal) (f : State → State) : Host.Outcome State Fault Refusal :=
  match o with
  | .next s => .next (f s)
  | .fault r => .fault r
  | .refused r => .refused r

end Sys2Proof.Machine
end

