-- ==== Sys2Proof/Machine/Flags.lean ====
section
/-! DEFINITION. Every flag computation (spec/10_state.md R22, R23; spec/42_alu.md R142). "A flag write stores the 8-bit
value 0 or 1 into VF". -/

namespace Sys2Proof.Machine

/-- A flag as the byte stored into VF (R22). -/
def flagByte (b : Bool) : Byte := if b then 1#8 else 0#8

/-- `VF <- flag` (R22). -/
def State.setFlag (s : State) (b : Bool) : State := s.setReg regF (flagByte b)

/-- The carry of an addition: "1 iff a+b > 255" (R136, R142). -/
def carryFlag (a b : Byte) : Bool := decide (255 < a.toNat + b.toNat)

/-- The not-borrow of `a - b`: "1 iff a >= b" (R137, R139, R142). -/
def notBorrowFlag (a b : Byte) : Bool := decide (b.toNat ≤ a.toNat)

/-- The bit a right shift drops: `v & 1` (R138, R142). -/
def shiftedOutLow (v : Byte) : Bool := v.getLsbD 0

/-- The bit a left shift drops: `(v >> 7) & 1` (R140, R142). -/
def shiftedOutHigh (v : Byte) : Bool := v.getLsbD 7

end Sys2Proof.Machine
end

