-- ==== Sys2Proof/Machine/Alu.lean ====
section
/-! DEFINITION. Register load, arithmetic, logic, shift and random (spec/42_alu.md). Arithmetic wraps modulo 256
(R142). -/

namespace Sys2Proof.Machine

/-- The result first, then the flag: the order of the writes of `ADD_REG`, `SUB`, `SUBN`, both operands read before
(R143; the spec's D15). -/
def State.setResultThenFlag (s : State) (x : Nibble) (b : Byte) (flag : Bool) : State := (s.setReg x b).setFlag flag

/-- The quirk of the shifts: `if SHIFT_USES_VY then V[x] <- V[y]` (R138, R140; the spec's D17). -/
def State.shiftSource (s : State) (x y : Nibble) : State :=
  if s.config.shiftUsesVy then s.setReg x (s.reg y) else s

/-- The flag first, then `V[x]` read again and shifted (R138, R140, R143; the spec's D16). -/
def State.shiftReg (s : State) (x : Nibble) (out : Byte → Bool) (shift : Byte → Byte) : State :=
  let t := s.setFlag (out (s.reg x))
  t.setReg x (shift (t.reg x))

/-- `LD Vx, nn` (R130). -/
def execLdImm (x : Nibble) (nn : Byte) (s : State) : Host.Outcome State Fault Refusal := .next (s.setReg x nn)

/-- `ADD Vx, nn`: wraps, no flag (R131; the spec's D18). -/
def execAddImm (x : Nibble) (nn : Byte) (s : State) : Host.Outcome State Fault Refusal :=
  .next (s.setReg x (s.reg x + nn))

/-- `LD Vx, Vy` (R132). -/
def execLdReg (x y : Nibble) (s : State) : Host.Outcome State Fault Refusal := .next (s.setReg x (s.reg y))

/-- `OR Vx, Vy`: VF is left alone (R133). -/
def execOrReg (x y : Nibble) (s : State) : Host.Outcome State Fault Refusal :=
  .next (s.setReg x (s.reg x ||| s.reg y))

/-- `AND Vx, Vy`: VF is left alone (R134). -/
def execAndReg (x y : Nibble) (s : State) : Host.Outcome State Fault Refusal :=
  .next (s.setReg x (s.reg x &&& s.reg y))

/-- `XOR Vx, Vy`: VF is left alone (R135). -/
def execXorReg (x y : Nibble) (s : State) : Host.Outcome State Fault Refusal :=
  .next (s.setReg x (s.reg x ^^^ s.reg y))

/-- `ADD Vx, Vy`: VF = carry (R136). -/
def execAddReg (x y : Nibble) (s : State) : Host.Outcome State Fault Refusal :=
  .next (s.setResultThenFlag x (s.reg x + s.reg y) (carryFlag (s.reg x) (s.reg y)))

/-- `SUB Vx, Vy`: VF = not-borrow (R137). -/
def execSub (x y : Nibble) (s : State) : Host.Outcome State Fault Refusal :=
  .next (s.setResultThenFlag x (s.reg x - s.reg y) (notBorrowFlag (s.reg x) (s.reg y)))

/-- `SHR Vx, Vy`: VF = the bit shifted out (R138). -/
def execShr (x y : Nibble) (s : State) : Host.Outcome State Fault Refusal :=
  .next ((s.shiftSource x y).shiftReg x shiftedOutLow (fun v => v >>> 1))

/-- `SUBN Vx, Vy`: `V[y] - V[x]`, VF = its not-borrow (R139). -/
def execSubn (x y : Nibble) (s : State) : Host.Outcome State Fault Refusal :=
  .next (s.setResultThenFlag x (s.reg y - s.reg x) (notBorrowFlag (s.reg y) (s.reg x)))

/-- `SHL Vx, Vy`: VF = the bit shifted out (R140). -/
def execShl (x y : Nibble) (s : State) : Host.Outcome State Fault Refusal :=
  .next ((s.shiftSource x y).shiftReg x shiftedOutHigh (fun v => v <<< 1))

/-- `RND Vx, nn`: `V[x] <- rnd & nn`, `rnd` the byte presented to this step, under no law (R141, R198; the spec's D22;
log 1). -/
def execRnd (x : Nibble) (nn : Byte) (s : State) : Host.Outcome State Fault Refusal :=
  .next (s.setReg x (s.inp.rnd &&& nn))

end Sys2Proof.Machine
end

