-- ==== Sys2Proof/Machine/Operands.lean ====
section
/-! DEFINITION. Every operand form (spec/30_encoding.md R73): registers are `State.reg`, the literal `nn` stands as it
is, and the forms below are computed. -/

namespace Sys2Proof.Machine

/-- `zext_16(nnn)`: the literal as a value of `pc` or `I` (R73). -/
def addrOperand (nnn : Addr12) : Word := nnn.setWidth 16

/-- `nnn + V[0]`, a natural-number sum that 16 bits hold (R117). -/
def offsetTarget (nnn : Addr12) (b : Byte) : Word := BitVec.ofNat 16 (nnn.toNat + b.toNat)

/-- The low nibble of a register: the digit of `LD_F` (R152, the spec's D24), the key number of `SKP` and `SKNP`
(R173, R174, the spec's D25). -/
def lowNibble (b : Byte) : Nibble := b.extractLsb' 0 4

/-- `0x50 + 5 * d`: where the glyph of digit `d` stands (R59, R152). -/
def glyphAddress (d : Nibble) : Word := BitVec.ofNat 16 (0x50 + 5 * d.toNat)

/-- The three decimal digits of a byte: hundreds, tens, ones (R153). -/
def bcdDigits (b : Byte) : List Byte :=
  [BitVec.ofNat 8 (b.toNat / 100), BitVec.ofNat 8 (b.toNat / 10 % 10), BitVec.ofNat 8 (b.toNat % 10)]

/-- The first address of a data access: the value of `I`, to which offsets are added without wrap (R51, R156). -/
def State.base (s : State) : Nat := s.index.toNat

/-- The column a sprite starts at: `V[x] mod 64` (R161). -/
def State.originX (s : State) (x : Nibble) : Nat := (s.reg x).toNat % 64

/-- The row a sprite starts at: `V[y] mod 32` (R161). -/
def State.originY (s : State) (y : Nibble) : Nat := (s.reg y).toNat % 32

end Sys2Proof.Machine
end

