-- ==== Sys2Proof/Machine/ControlFlow.lean ====
section
/-! DEFINITION. Control transfer (spec/41_control_flow.md). On entry `pc` is the instruction's own address plus 2
(R102). -/

namespace Sys2Proof.Machine

/-- The skip of the conditional instructions: `if cond then pc <- pc + 2` (R118). -/
def State.skipIf (s : State) (cond : Bool) : State := if cond then s.advance else s

/-- `RET`: `pc <- pop()` (R110). -/
def execRet (s : State) : Host.Outcome State Fault Refusal :=
  .next (s.pop (encode .ret) fun v t => t.setPc v)

/-- `JP nnn`: `pc <- zext_16(nnn)` (R111). -/
def execJp (nnn : Addr12) (s : State) : Host.Outcome State Fault Refusal := .next (s.setPc (addrOperand nnn))

/-- `CALL nnn`: `push(pc)`, then `pc <- zext_16(nnn)` (R112). -/
def execCall (nnn : Addr12) (s : State) : Host.Outcome State Fault Refusal :=
  .next (s.push (encode (.call nnn)) s.pc fun t => t.setPc (addrOperand nnn))

/-- `SE Vx, nn` (R113). -/
def execSeImm (x : Nibble) (nn : Byte) (s : State) : Host.Outcome State Fault Refusal :=
  .next (s.skipIf (s.reg x == nn))

/-- `SNE Vx, nn` (R114). -/
def execSneImm (x : Nibble) (nn : Byte) (s : State) : Host.Outcome State Fault Refusal :=
  .next (s.skipIf (s.reg x != nn))

/-- `SE Vx, Vy` (R115). -/
def execSeReg (x y : Nibble) (s : State) : Host.Outcome State Fault Refusal :=
  .next (s.skipIf (s.reg x == s.reg y))

/-- `SNE Vx, Vy` (R116). -/
def execSneReg (x y : Nibble) (s : State) : Host.Outcome State Fault Refusal :=
  .next (s.skipIf (s.reg x != s.reg y))

/-- `JP V0, nnn`: `pc <- nnn + V[0]` (R117; the spec's D21). -/
def execJpV0 (nnn : Addr12) (s : State) : Host.Outcome State Fault Refusal :=
  .next (s.setPc (offsetTarget nnn (s.reg 0#4)))

end Sys2Proof.Machine
end

