-- ==== Sys2Proof/Machine/Display.lean ====
section
/-! DEFINITION. The framebuffer instructions (spec/44_display.md), the only ones that write `fb`. -/

namespace Sys2Proof.Machine

/-- `CLS`: every pixel 0, VF left alone (R160). -/
def execCls (s : State) : Host.Outcome State Fault Refusal := .next (s.setFb 0#2048)

/-- The sprite of `DRW` drawn from an unset collision flag: the origin wraps, the body clips (R161, R162). -/
def State.drawn (s : State) (x y n : Nibble) : Canvas :=
  drawSprite s.mem s.base (s.originX x) (s.originY y) (spriteRows n (s.originY y)) { fb := s.fb, hit := false }

/-- `DRW Vx, Vy, n`: VF = collision (R161). Coordinates and memory are read before VF is written (the spec's D13);
rows that are not drawn are neither read nor checked (the spec's D12). -/
def execDrw (x y n : Nibble) (s : State) : Host.Outcome State Fault Refusal :=
  .next (s.checkRange s.base (spriteRows n (s.originY y)) fun t =>
    (t.setFb (t.drawn x y n).fb).setFlag (t.drawn x y n).hit)

end Sys2Proof.Machine
end

