-- ==== Sys2Proof/Machine/IndexMemory.lean ====
section
/-! DEFINITION. The index register and memory (spec/43_index_memory.md). None writes a flag; an access never modifies
`I` (R156). -/

namespace Sys2Proof.Machine

/-- `LD I, nnn` (R150; the spec's D30). -/
def execLdI (nnn : Addr12) (s : State) : Host.Outcome State Fault Refusal := .next (s.setIndex (addrOperand nnn))

/-- `ADD I, Vx`: modulo 65536, no flag (R151; the spec's D23). -/
def execAddI (x : Nibble) (s : State) : Host.Outcome State Fault Refusal :=
  .next (s.setIndex (s.index + (s.reg x).setWidth 16))

/-- `LD F, Vx`: the address of a digit's glyph (R152; the spec's D24). -/
def execLdF (x : Nibble) (s : State) : Host.Outcome State Fault Refusal :=
  .next (s.setIndex (glyphAddress (lowNibble (s.reg x))))

/-- `LD B, Vx`: hundreds, tens, ones at `I`, `I+1`, `I+2` (R153). -/
def execLdB (x : Nibble) (s : State) : Host.Outcome State Fault Refusal :=
  .next (s.checkRange s.base 3 fun t => t.storeBytes t.base (bcdDigits (t.reg x)))

/-- `LD [I], Vx`: `V[0] .. V[x]` stored from `I` up (R154). -/
def execStRegs (x : Nibble) (s : State) : Host.Outcome State Fault Refusal :=
  .next (s.checkRange s.base (x.toNat + 1) fun t => t.storeBytes t.base (t.regsUpTo x))

/-- `LD Vx, [I]`: `V[0] .. V[x]` loaded from `I` up (R155). -/
def execLdRegs (x : Nibble) (s : State) : Host.Outcome State Fault Refusal :=
  .next (s.checkRange s.base (x.toNat + 1) fun t => t.loadRegs t.base x)

end Sys2Proof.Machine
end

