-- ==== Sys2Proof/Machine/TimersKeys.lean ====
section
/-! DEFINITION. Timer transfers and key instructions (spec/45_timers_keys.md). None raises an exception, none writes a
flag. -/

namespace Sys2Proof.Machine

/-- `LD Vx, DT` (R170). -/
def execLdVxDt (x : Nibble) (s : State) : Host.Outcome State Fault Refusal := .next (s.setReg x s.dt)

/-- `LD DT, Vx` (R171). -/
def execLdDtVx (x : Nibble) (s : State) : Host.Outcome State Fault Refusal := .next (s.setDt (s.reg x))

/-- `LD ST, Vx`: the write itself emits no sound (R172). -/
def execLdStVx (x : Nibble) (s : State) : Host.Outcome State Fault Refusal := .next (s.setSt (s.reg x))

/-- `SKP Vx`: skip if the key of the low nibble is held (R173; the spec's D25). -/
def execSkp (x : Nibble) (s : State) : Host.Outcome State Fault Refusal :=
  .next (s.skipIf (s.keyHeld (lowNibble (s.reg x))))

/-- `SKNP Vx`: skip if the key of the low nibble is not held (R174; the spec's D25). -/
def execSknp (x : Nibble) (s : State) : Host.Outcome State Fault Refusal :=
  .next (s.skipIf (!s.keyHeld (lowNibble (s.reg x))))

/-- The effect of `LD Vx, K`: with no key held a stall, `pc` again the instruction's own address; else the lowest held
key (R175; the spec's D26). -/
def State.waitKey (s : State) (x : Nibble) : State :=
  match s.lowestKey with
  | none => s.setPc (s.pc - 2#16)
  | some k => s.setReg x (BitVec.ofNat 8 k)

/-- `LD Vx, K` (R175). -/
def execLdK (x : Nibble) (s : State) : Host.Outcome State Fault Refusal := .next (s.waitKey x)

end Sys2Proof.Machine
end

