-- ==== Sys2Proof/Machine/Interface.lean ====
section
/-! DEFINITION. The agents beside the Executor: the two timer ticks (spec/60_exceptions.md R191, R192), reset and the
memory load port (spec/70_reset_and_hazards.md R210, R212), the renewal of the inputs, and the host's boot (R213 to
R216). -/

namespace Sys2Proof.Machine

/-! ### The Timer Subsystem -/

/-- One step of agent TickDT: `if DT != 0 then DT <- DT - 1` (R191). -/
def State.tickDT (s : State) : State := if s.dt = 0#8 then s else s.setDt (s.dt - 1#8)

/-- One step of agent TickST: `if ST != 0 then (emit sound; ST <- ST - 1)` (R192). -/
def State.tickST (s : State) : State :=
  if s.st = 0#8 then s else { s.setSt (s.st - 1#8) with sounds := s.sounds + 1 }

/-- A counter after `k` ticks: "never wraps below zero" (R191). -/
def countDown (b : Byte) (k : Nat) : Byte := if b = 0#8 then 0#8 else BitVec.ofNat 8 (b.toNat - k)

/-- The number of `k` ticks that find a counter nonzero (R192, R193). -/
def liveTicks (b : Byte) (k : Nat) : Nat := if b = 0#8 then 0 else min k b.toNat

/-- The effect of `k` TickDT and `m` TickST steps, in any order (R194): that of the single steps above, one field at a
time. -/
def State.ticks (s : State) (k m : Nat) : State :=
  { s with dt := countDown s.dt k, st := countDown s.st m, sounds := s.sounds + liveTicks s.st m }

/-- The ticks that arrived since the last Executor step (R106; log 3). -/
def State.applyTicks (s : State) : State := s.ticks s.inp.dtTicks s.inp.stTicks

/-! ### Reset and the memory load port -/

/-- The host's writes through the memory load port, in order (R212). -/
def loadPort (m : Memory) (writes : List (Addr12 × Byte)) : Memory :=
  writes.foldl (fun t c => t.write c.1.toNat c.2) m

/-- Every element but `mem` at its reset value; the only way out of the halted state (R39, R189, R210). The parameters
and the inputs are no registers and stay. -/
def State.toReset (s : State) : State :=
  { State.reset with
    mem := s.mem, config := s.config, inp := s.inp, script := s.script, inputCount := s.inputCount }

/-- A step with `rst` asserted: no agent of the core steps, the host may load `mem` (R210, R212; log 9). -/
def State.holdReset (s : State) : State := s.toReset.setMem (loadPort s.mem s.inp.load)

/-! ### The inputs of the next step -/

/-- Inputs that no script fixes: free, but that the host asserts no reset on its own (log 1, log 4). -/
def freeInputs (k : Nat) : Inputs := { Config.freeInputs k with rst := false, load := [] }

/-- The inputs of the next step: the script's next entry, or free ones past its end (R106, R197, R198; log 1). -/
def State.renewInputs (s : State) : State :=
  match s.script with
  | e :: later => { s with inp := e, script := later }
  | [] => { s with inp := freeInputs s.inputCount, inputCount := s.inputCount + 1 }

/-! ### Boot -/

/-- `MEM0`: the font at 0x50, the image at 0x200, the rest at its power-on contents (R213, R215, R216). -/
def bootMemory (font image : List Byte) : Memory :=
  Memory.writeBytes (Memory.writeBytes [] 0x50 (font.take 80)) 0x200 image

/-- The host's boot: reset held, the font and the program image loaded, reset released, and the inputs from there on as
the script says and free past its end. An image that does not fit is LoadFailure: "execution never starts" (R185, R213
to R216; log 15). -/
def State.boot (config : Config) (font image : List Byte) (script : List Inputs) : Host.Outcome State Fault Refusal :=
  if imageFits image then
    .next ({ State.reset with mem := bootMemory font image, config := config, script := script }).renewInputs
  else .fault .loadFailure

end Sys2Proof.Machine
end

