-- ==== Sys2Proof/Machine/Cycle.lean ====
section
/-! DEFINITION. The Executor's cycle: fetch, advance, decode, execute, present (spec/40_cycle.md R100). -/

namespace Sys2Proof.Machine

/-- The word at an address, `mem[a] ++ mem[a+1]` (R52, R54). -/
def State.wordAt (s : State) (a : Nat) : Word := wordOfBytes (s.byteAt a) (s.byteAt (a + 1))

/-- Fetch: the word at `pc`, or the lowest offending address if `pc > 4094` (R52, R101). No alignment test (R55). -/
def State.fetch (s : State) : Except Nat Word :=
  if 4094 < s.pc.toNat then .error s.pc.toNat else .ok (s.wordAt s.pc.toNat)

/-- Present: a `frame` event, but not at the end of a step that halted (R104; the spec's D28). -/
def State.present (s : State) : State := if s.halted then s else { s with frames := s.frames + 1 }

/-- `execute` of what the Decoder answered: an instruction's meaning, or `raise DecodeGap(w)` (R103, R181). -/
def execDecoded (d : Decoded) (s : State) : Host.Outcome State Fault Refusal :=
  match d with
  | .instr i => exec i s
  | .unrecognized w => .next (s.raise .decodeGap (wordInfo w))

/-- The Executor's step (R100). A halted Executor has none (R105); a failed fetch halts with `pc` not advanced (R101). -/
def executorStep (s : State) : Host.Outcome State Fault Refusal :=
  if s.halted then .next s
  else
    match s.fetch with
    | .error a => .next (s.raise .memoryBound (boundInfo a))
    | .ok w => thenNext (execDecoded (decode w) s.advance) State.present

/-- One step of the whole block: with `rst` asserted the reset is held and nothing else moves (R210); otherwise the
ticks that arrived, then the Executor (R106); and then the inputs of the next step. -/
def blockStep (s : State) : Host.Outcome State Fault Refusal :=
  if s.inp.rst then .next s.holdReset.renewInputs
  else thenNext (executorStep s.applyTicks) State.renewInputs

/-- Where a word must stand to be fetched next: at `pc`, or at 0x200 if no word can be fetched at `pc`. -/
def State.fetchAddress (s : State) : Word := if 4094 < s.pc.toNat then 0x200#16 else s.pc

/-- The word placed where the next step fetches, and what else that fetch needs: a `pc` that can be fetched at, an
Executor that is not halted, `rst` released (log 19). -/
def State.placeWord (s : State) (w : Word) : State :=
  { s with
    pc := s.fetchAddress
    mem := s.mem.writeBytes s.fetchAddress.toNat (bytesOfWord w)
    halted := false
    hcause := if s.halted then .none else s.hcause
    hinfo := if s.halted then 0#17 else s.hinfo
    inp := { s.inp with rst := false } }

end Sys2Proof.Machine
end

