-- ==== Sys2Proof/Safety.lean ====
section
/-! DEFINITION. The terms the statements use: what a step leaves alone, the invariant every step keeps, and the
readings of the specification that are stated apart from the code that computes them. -/

namespace Sys2Proof.Machine

/-! ### Frames -/

/-- The elements of the architectural state (spec/10_state.md R20), the halt latch as one. -/
inductive Part where
  | mem | regs | index | pc | stack | fb | dt | st | latch
  deriving DecidableEq, Repr

/-- An element is the same in two states; memory is compared byte by byte, registers one by one. -/
def Keeps (s t : State) : Part → Prop
  | .mem => ∀ a, t.byteAt a = s.byteAt a
  | .regs => ∀ r, t.reg r = s.reg r
  | .index => t.index = s.index
  | .pc => t.pc = s.pc
  | .stack => t.stack = s.stack
  | .fb => t.fb = s.fb
  | .dt => t.dt = s.dt
  | .st => t.st = s.st
  | .latch => t.halted = s.halted ∧ t.hcause = s.hcause ∧ t.hinfo = s.hinfo

/-- The parameters, the inputs and the model's own fields are the same. -/
def SameSurroundings (s t : State) : Prop :=
  t.config = s.config ∧ t.inp = s.inp ∧ t.script = s.script ∧ t.inputCount = s.inputCount ∧
    t.frames = s.frames ∧ t.sounds = s.sounds

/-- Every element but the named ones is the same, and so are the surroundings. -/
def ChangesOnly (parts : List Part) (s t : State) : Prop :=
  SameSurroundings s t ∧ ∀ p, p ∉ parts → Keeps s t p

/-! ### The invariant -/

/-- At most `STACK_DEPTH` entries (R28), each an advanced `pc`, "so at most 4096" (R26). -/
def StackBounded (s : State) : Prop :=
  (∀ d, s.config.stackDepth = some d → s.stack.length ≤ d) ∧ ∀ v ∈ s.stack, v.toNat ≤ 4096

/-- "the largest value any instruction can load is 0x10FE" (R26). -/
def PcBounded (s : State) : Prop := s.pc.toNat ≤ 0x10FE

/-- The halt latch says what R35 and R180 say: clear while running; while halted one of the four causes the core
raises, with the information that cause carries. -/
def LatchCoherent (s : State) : Prop :=
  match s.halted, s.hcause with
  | false, c => c = .none ∧ s.hinfo = 0#17
  | true, .decodeGap => ∃ w, decode w = .unrecognized w ∧ s.hinfo = wordInfo w
  | true, .stackUnderflow => s.hinfo = 0x00EE#17
  | true, .memoryBound => 0x1000 ≤ s.hinfo.toNat ∧ s.hinfo.toNat ≤ 0xFFFF
  | true, .stackOverflow => ∃ nnn, s.hinfo = wordInfo (encode (.call nnn))
  | true, _ => False

/-- What every step keeps. -/
def MachineInv (s : State) : Prop :=
  s.mem.wf = true ∧ StackBounded s ∧ PcBounded s ∧ LatchCoherent s

/-! ### Readings of the specification -/

/-- The bit of a sprite that falls on the pixel (px, py): row `py - y0`, column `px - x0`, bit 7 leftmost; none outside
the eight columns, the drawn rows and the screen (R161, R162). -/
def spriteBit (m : Memory) (a x0 y0 rows px py : Nat) : Bool :=
  decide (x0 ≤ px ∧ px < x0 + 8 ∧ px ≤ 63 ∧ y0 ≤ py ∧ py < y0 + rows) &&
    (m.read (a + (py - y0))).getLsbD (7 - (px - x0))

/-- One event of the Timer Subsystem (R191, R192). -/
inductive Tick where
  | dt | st
  deriving DecidableEq, Repr

/-- Tick steps one after the other. -/
def State.tickAll (s : State) : List Tick → State
  | [] => s
  | .dt :: rest => s.tickDT.tickAll rest
  | .st :: rest => s.tickST.tickAll rest

/-- `CALL` executed for each target in turn. -/
def callAll : List Addr12 → State → Host.Outcome State Fault Refusal
  | [], s => .next s
  | a :: rest, s =>
    match exec (.call a) s with
    | .next t => callAll rest t
    | .fault r => .fault r
    | .refused r => .refused r

/-- `RET` executed `k` times. -/
def retAll : Nat → State → Host.Outcome State Fault Refusal
  | 0, s => .next s
  | k + 1, s =>
    match exec .ret s with
    | .next t => retAll k t
    | .fault r => .fault r
    | .refused r => .refused r

/-- The instructions that write VF as a side effect (R23). -/
def flagWriter : Instr → Bool
  | .addReg _ _ | .sub _ _ | .subn _ _ | .shr _ _ | .shl _ _ | .drw _ _ _ => true
  | _ => false

/-- The general register an instruction names as its destination: the field `x` of those that write one. -/
def destReg : Instr → Option Nibble
  | .ldImm x _ | .addImm x _ | .ldReg x _ | .orReg x _ | .andReg x _ | .xorReg x _ | .addReg x _ | .sub x _
  | .shr x _ | .subn x _ | .shl x _ | .rnd x _ | .ldVxDt x | .ldK x => some x
  | _ => none

/-- The instructions that set `pc` (R26): every other leaves the advanced value. -/
def transfersControl : Instr → Bool
  | .ret | .jp _ | .call _ | .jpV0 _ | .seImm _ _ | .sneImm _ _ | .seReg _ _ | .sneReg _ _ | .skp _ | .sknp _
  | .ldK _ => true
  | _ => false

/-- The instructions that read an input signal (R38). -/
def readsInput : Instr → Bool
  | .rnd _ _ | .skp _ | .sknp _ | .ldK _ => true
  | _ => false

/-- The halt an instruction may raise (R180, R188). -/
def mayRaise : Instr → HaltCause → Bool
  | .ret, .stackUnderflow | .call _, .stackOverflow | .ldB _, .memoryBound | .stRegs _, .memoryBound
  | .ldRegs _, .memoryBound | .drw _ _ _, .memoryBound => true
  | _, _ => false

end Sys2Proof.Machine
end

