-- ==== Sys2Proof/Certificates/Slice0/Obligations.lean ====
section
/-! DEFINITION. The statements for the provers. Each docstring names the statement of spec/ it formalises; a clause that
rests on a decision of the spec, on general knowledge or on a choice of this model says so. -/

open Sys2Proof Sys2Proof.Machine

/-! ### Encoding (spec/30_encoding.md) -/

/-- The Decoder reads back every instruction from its word and from its bytes in memory, whatever follows them (30,
section 6; the words are the spec's D20). -/
def Obligations.DecodeOfEncode : Prop :=
  ∀ (i : Instr) (rest : List Byte),
    decode (encode i) = .instr i ∧ decodeBytes (bytesOfWord (encode i) ++ rest) = .ok (i, rest)

/-- A word has at most one reading: an instruction's word is the only word decoded to it, and a rejected word is
reported as it is (30, section 6). -/
def Obligations.EncodeOfDecode : Prop :=
  ∀ w : Word, (∀ i, decode w = .instr i → encode i = w) ∧ ∀ u, decode w = .unrecognized u → u = w

/-- The Decoder and the opcode map agree: a word is decoded exactly when it matches a row, to an instruction of that
row, and no two rows match one word (30, section 4). -/
def Obligations.DecodeMatchesTable : Prop :=
  (∀ (w : Word) (i : Instr), decode w = .instr i → w &&& (tableRow i).1 = (tableRow i).2) ∧
  (∀ (w : Word) (j : Instr), w &&& (tableRow j).1 = (tableRow j).2 → ∃ i, decode w = .instr i) ∧
  (∀ (w : Word) (i j : Instr), w &&& (tableRow i).1 = (tableRow i).2 → w &&& (tableRow j).1 = (tableRow j).2 →
    tableRow i = tableRow j)

/-- Unmatched selectors are `Unrecognized`: family 0 but two words, families 5 and 9 with `n` not 0 (the spec's D19),
families 8, E, F but their listed selectors (30, section 3). -/
def Obligations.UnmatchedSelectors : Prop :=
  ∀ w : Word,
    (opField w = 0x0#4 → w ≠ 0x00E0#16 → w ≠ 0x00EE#16 → decode w = .unrecognized w) ∧
    (opField w = 0x5#4 ∨ opField w = 0x9#4 → nField w ≠ 0x0#4 → decode w = .unrecognized w) ∧
    (opField w = 0x8#4 → nField w ∉ [0x0#4, 0x1#4, 0x2#4, 0x3#4, 0x4#4, 0x5#4, 0x6#4, 0x7#4, 0xE#4] →
      decode w = .unrecognized w) ∧
    (opField w = 0xE#4 → nnField w ∉ [0x9E#8, 0xA1#8] → decode w = .unrecognized w) ∧
    (opField w = 0xF#4 →
      nnField w ∉ [0x07#8, 0x0A#8, 0x15#8, 0x18#8, 0x1E#8, 0x29#8, 0x33#8, 0x55#8, 0x65#8] →
      decode w = .unrecognized w)

/-- Words the specification writes out (95: S1 to S4, S13, section 2.1; 42, section 2). The words 0x8AB7, 0xD125, 0xF133
and 0xE19E are general knowledge that the spec's D20 adopts (log 14, PRESUMED). -/
def Obligations.WrittenOutWordsDecode : Prop :=
  decode 0x1234#16 = .instr (.jp 0x234#12) ∧ decode 0x3A55#16 = .instr (.seImm 0xA#4 0x55#8) ∧
  decode 0x00E0#16 = .instr .cls ∧ decode 0xFFFF#16 = .unrecognized 0xFFFF#16 ∧
  decode 0x6005#16 = .instr (.ldImm 0x0#4 0x05#8) ∧ decode 0x7003#16 = .instr (.addImm 0x0#4 0x03#8) ∧
  decode 0x8AB7#16 = .instr (.subn 0xA#4 0xB#4) ∧ decode 0xD125#16 = .instr (.drw 0x1#4 0x2#4 0x5#4) ∧
  decode 0xF133#16 = .instr (.ldB 0x1#4) ∧ decode 0xE19E#16 = .instr (.skp 0x1#4)

/-! ### The cycle (spec/40_cycle.md) -/

/-- The fetch reads the bytes at `pc` and `pc+1`, high byte first, whatever the parity of `pc`; beyond address 4094 the
step halts with MemoryBound and `pc` keeps its value (40, fetch). That the step also applies the ticks that arrived and
renews the inputs is this model's choice (log 3, log 1). -/
def Obligations.FetchReadsOrHalts : Prop :=
  ∀ s : State,
    (s.pc.toNat ≤ 4094 → s.fetch = .ok (s.byteAt s.pc.toNat ++ s.byteAt (s.pc.toNat + 1))) ∧
    (s.inp.rst = false → s.halted = false → 4094 < s.pc.toNat → ∃ t, step s = .next t ∧
      t = (s.applyTicks.raise .memoryBound (BitVec.ofNat 17 (max s.pc.toNat 4096))).renewInputs ∧ t.pc = s.pc)

/-- A step runs the decoded instruction: after the ticks that arrived, the instruction at `pc` is executed with `pc`
advanced by 2; then a `frame` event unless it halted (the spec's D28), and the next inputs (40; log 1, log 3). -/
def Obligations.StepRunsDecoded : Prop :=
  ∀ (s : State) (w : Word) (i : Instr), s.inp.rst = false → s.halted = false → s.pc.toNat ≤ 4094 →
    w = s.byteAt s.pc.toNat ++ s.byteAt (s.pc.toNat + 1) → decode w = .instr i →
    step s = thenNext (exec i (s.applyTicks.setPc (s.pc + 2#16)))
      (fun t => (if t.halted then t else { t with frames := t.frames + 1 }).renewInputs)

/-- A word of no row halts with DecodeGap, the word in `hinfo` (10 section 8), after `pc` was advanced, and changes
nothing but the halt latch (60 section 1). That the step also applies the ticks that arrived and renews the inputs is
this model's choice (log 3, log 1). -/
def Obligations.UnrecognizedHalts : Prop :=
  ∀ (s : State) (w : Word), s.inp.rst = false → s.halted = false → s.pc.toNat ≤ 4094 →
    w = s.byteAt s.pc.toNat ++ s.byteAt (s.pc.toNat + 1) → (∀ i, decode w ≠ .instr i) →
    step s = .next ((s.applyTicks.setPc (s.pc + 2#16)).raise .decodeGap (w.setWidth 17)).renewInputs

/-- A halted Executor has no step: only the ticks go on (the spec's D27, D29). -/
def Obligations.HaltedStepOnlyTicks : Prop :=
  ∀ s : State, s.inp.rst = false → s.halted = true → ∃ t, step s = .next t ∧
    (∀ p, p ∉ [Part.dt, Part.st] → Keeps s t p) ∧ t.frames = s.frames ∧
    t.dt.toNat = s.dt.toNat - s.inp.dtTicks ∧ t.st.toNat = s.st.toNat - s.inp.stTicks ∧
    t.sounds = s.sounds + min s.inp.stTicks s.st.toNat

/-- Every instruction and every step answers a next state, no fault and no refusal: completing, halting and stalling are
the only outcomes (00 section 6), and a halt is a next state in this model (log 10). Which state follows, the other
statements say. -/
def Obligations.NothingStopsTheModel : Prop :=
  (∀ (i : Instr) (s : State), ∃ t, exec i s = .next t) ∧ ∀ s : State, ∃ t, step s = .next t

/-! ### Reset and boot (spec/70_reset_and_hazards.md) -/

/-- While `rst` is asserted every element but `mem` takes its reset value and the load port alone changes `mem`: of its
writes to one address the last one stands (the spec's D1, D5, D6; log 4, log 5, log 9). -/
def Obligations.ResetHeld : Prop :=
  ∀ s : State, s.mem.wf = true → s.inp.rst = true → ∃ t, step s = .next t ∧
    t.pc = 0x0200#16 ∧ t.stack = [] ∧ t.fb = 0#2048 ∧ (∀ r, t.reg r = 0#8) ∧ t.index = 0#16 ∧ t.dt = 0#8 ∧
    t.st = 0#8 ∧ t.halted = false ∧ t.hcause = .none ∧ t.hinfo = 0#17 ∧
    (∀ a, (∀ c ∈ s.inp.load, c.1.toNat ≠ a) → t.byteAt a = s.byteAt a) ∧
    (∀ before a b after, s.inp.load = before ++ (a, b) :: after → (∀ c ∈ after, c.1 ≠ a) → t.byteAt a.toNat = b)

/-- The machine at reset: the values of 10 section 10 (V, I, DT, ST by the spec's D5, log 5), and memory at its power-on
contents, the default font (93, G3) and zeros (the spec's D6, D7, log 6). -/
def Obligations.ResetValues : Prop :=
  State.reset.pc = 0x0200#16 ∧ State.reset.stack = [] ∧
  (∀ x y, x < 64 → y < 32 → pixel State.reset.fb x y = false) ∧ (∀ r, State.reset.reg r = 0#8) ∧
  State.reset.index = 0#16 ∧ State.reset.dt = 0#8 ∧ State.reset.st = 0#8 ∧ State.reset.halted = false ∧
  State.reset.hcause.code = 0#3 ∧ State.reset.hinfo = 0#17 ∧
  (∀ a, a < 0x50 ∨ 0x9F < a → State.reset.byteAt a = 0#8) ∧
  (List.range 80).map (fun k => State.reset.byteAt (0x50 + k)) =
    [0xF0#8, 0x90#8, 0x90#8, 0x90#8, 0xF0#8] ++ [0x20#8, 0x60#8, 0x20#8, 0x20#8, 0x70#8] ++
    [0xF0#8, 0x10#8, 0xF0#8, 0x80#8, 0xF0#8] ++ [0xF0#8, 0x10#8, 0xF0#8, 0x10#8, 0xF0#8] ++
    [0x90#8, 0x90#8, 0xF0#8, 0x10#8, 0x10#8] ++ [0xF0#8, 0x80#8, 0xF0#8, 0x10#8, 0xF0#8] ++
    [0xF0#8, 0x80#8, 0xF0#8, 0x90#8, 0xF0#8] ++ [0xF0#8, 0x10#8, 0x20#8, 0x40#8, 0x40#8] ++
    [0xF0#8, 0x90#8, 0xF0#8, 0x90#8, 0xF0#8] ++ [0xF0#8, 0x90#8, 0xF0#8, 0x10#8, 0xF0#8] ++
    [0xF0#8, 0x90#8, 0xF0#8, 0x90#8, 0x90#8] ++ [0xE0#8, 0x90#8, 0xE0#8, 0x90#8, 0xE0#8] ++
    [0xF0#8, 0x80#8, 0x80#8, 0x80#8, 0xF0#8] ++ [0xE0#8, 0x90#8, 0x90#8, 0x90#8, 0xE0#8] ++
    [0xF0#8, 0x80#8, 0xF0#8, 0x80#8, 0xF0#8] ++ [0xF0#8, 0x80#8, 0xF0#8, 0x80#8, 0x80#8]

/-- The host's boot: an image that fits stands at 0x200, the font at 0x50, every other byte is 0 (the spec's D6); every
element but memory has its reset value (10 section 10, 70 section 1; V, I, DT, ST by the spec's D5, log 5); the first
inputs are the script's or free (log 1). An image that does not fit is LoadFailure (70 section 2; log 15). -/
def Obligations.BootLoadsImage : Prop :=
  ∀ (c : Config) (font image : List Byte) (script : List Inputs),
    (4096 - 0x200 < image.length → State.boot c font image script = .fault .loadFailure) ∧
    (image.length ≤ 4096 - 0x200 → fontWhole font = true → ∃ t, State.boot c font image script = .next t ∧
      t.pc = 0x0200#16 ∧ t.config = c ∧ t.stack = [] ∧ (∀ r, t.reg r = 0#8) ∧ t.index = 0#16 ∧ t.dt = 0#8 ∧
      t.st = 0#8 ∧ t.fb = 0#2048 ∧ t.halted = false ∧ t.hcause = .none ∧ t.hinfo = 0#17 ∧
      t.inp = script.headD (freeInputs 0) ∧
      (∀ j, j < image.length → t.byteAt (0x200 + j) = image.getD j 0#8) ∧
      (∀ j, j < 80 → t.byteAt (0x50 + j) = font.getD j 0#8) ∧
      (∀ a, a < 0x50 ∨ (0x9F < a ∧ a < 0x200) ∨ 0x200 + image.length ≤ a → t.byteAt a = 0#8))

/-! ### Rules of the whole machine -/

/-- The invariant holds at reset. -/
def Obligations.InvAtReset : Prop := MachineInv State.reset

/-- Every step keeps the invariant: memory canonical, the stack within `STACK_DEPTH` and its entries at most 4096,
`pc` at most 0x10FE, the halt latch coherent (10: R26, R28, R35; 60: R180). -/
def Obligations.InvKeptByStep : Prop := ∀ s t : State, MachineInv s → step s = .next t → MachineInv t

/-- No step changes the parameters (00 section 4). -/
def Obligations.ParametersNeverChange : Prop := ∀ s t : State, step s = .next t → t.config = s.config

/-- Halts are precise: an instruction that halts changes the halt latch alone, and raises only its own cause (R180,
R187, R188; the whole-range check is the spec's D11). -/
def Obligations.HaltsArePrecise : Prop :=
  ∀ (i : Instr) (s t : State), exec i s = .next t → s.halted = false → t.halted = true →
    mayRaise i t.hcause = true ∧ t = s.raise t.hcause t.hinfo

/-- A general register changes only as the destination of the instruction, as VF under one of the six flag writers, or
among V0..Vx under `LD_REGS` (10 section 3; the closed list is the spec's inference, D18, D23, D30). -/
def Obligations.RegisterWriters : Prop :=
  ∀ (i : Instr) (s t : State) (r : Nibble), exec i s = .next t → t.reg r ≠ s.reg r →
    destReg i = some r ∨ (r = 0xF#4 ∧ flagWriter i = true) ∨ ∃ x, i = .ldRegs x ∧ r.toNat ≤ x.toNat

/-- Every other element has its own writers: `fb` "Mutated only by screen-clear and sprite-draw instructions", the
stack by `CALL` and `RET`, `I`, `DT`, `ST` by their loads, `mem` by the two stores, `pc` by the control transfers and
`LD_K`, the halt latch by the instructions that raise (10, 20; 60 section 1); no instruction changes a parameter, an
input or a counter of outputs (10 section 9; log 1, log 8, log 11). -/
def Obligations.ElementWriters : Prop :=
  ∀ (i : Instr) (s t : State), exec i s = .next t →
    (i ≠ .cls → (∀ x y n, i ≠ .drw x y n) → t.fb = s.fb) ∧
    (i ≠ .ret → (∀ nnn, i ≠ .call nnn) → t.stack = s.stack) ∧
    ((∀ nnn, i ≠ .ldI nnn) → (∀ x, i ≠ .addI x ∧ i ≠ .ldF x) → t.index = s.index) ∧
    ((∀ x, i ≠ .ldDtVx x) → t.dt = s.dt) ∧ ((∀ x, i ≠ .ldStVx x) → t.st = s.st) ∧
    ((∀ x, i ≠ .ldB x ∧ i ≠ .stRegs x) → ∀ a, t.byteAt a = s.byteAt a) ∧
    (transfersControl i = false → t.pc = s.pc) ∧ ((∀ c, mayRaise i c = false) → Keeps s t .latch) ∧
    SameSurroundings s t

/-- Only `RND`, `SKP`, `SKNP` and `LD_K` read an input signal: any other instruction does the same whatever the inputs
are (10 R38). -/
def Obligations.InputsReadByFourOnly : Prop :=
  ∀ (i : Instr) (s : State) (j : Inputs), readsInput i = false →
    exec i { s with inp := j } = thenNext (exec i s) (fun t => { t with inp := j })

/-! ### Control transfer (spec/41_control_flow.md) -/

/-- "Jump sets PC to the literal address": word 1NNN, any address, odd or not, and nothing else (R111). -/
def Obligations.JumpSetsPc : Prop :=
  ∀ (nnn : Addr12) (s : State), decode (0x1#4 ++ nnn) = .instr (.jp nnn) ∧
    ∃ t, exec (.jp nnn) s = .next t ∧ t.pc.toNat = nnn.toNat ∧ ChangesOnly [.pc] s t

/-- The four conditional skips: "adds a further 2 to PC when the condition holds", no flag, nothing else (R118); word
3XNN is the first of them (R113). -/
def Obligations.SkipsAddTwo : Prop :=
  ∀ (x y : Nibble) (nn : Byte) (s : State), decode (0x3#4 ++ x ++ nn) = .instr (.seImm x nn) ∧
    (∃ t, exec (.seImm x nn) s = .next t ∧ t.pc = (if s.reg x = nn then s.pc + 2#16 else s.pc) ∧
      ChangesOnly [.pc] s t) ∧
    (∃ t, exec (.sneImm x nn) s = .next t ∧ t.pc = (if s.reg x ≠ nn then s.pc + 2#16 else s.pc) ∧
      ChangesOnly [.pc] s t) ∧
    (∃ t, exec (.seReg x y) s = .next t ∧ t.pc = (if s.reg x = s.reg y then s.pc + 2#16 else s.pc) ∧
      ChangesOnly [.pc] s t) ∧
    (∃ t, exec (.sneReg x y) s = .next t ∧ t.pc = (if s.reg x ≠ s.reg y then s.pc + 2#16 else s.pc) ∧
      ChangesOnly [.pc] s t)

/-- `JP V0, nnn`: the sum is not reduced modulo 4096 (41; the operation is the spec's D21). -/
def Obligations.JumpWithOffset : Prop :=
  ∀ (nnn : Addr12) (s : State), ∃ t, exec (.jpV0 nnn) s = .next t ∧
    t.pc.toNat = nnn.toNat + (s.reg 0x0#4).toNat ∧ ChangesOnly [.pc] s t

/-- `CALL` with room on the stack: "pushes current PC (already advanced) then jumps" (41; that family 2 is the call is
the spec's D20, the capacity its D4). -/
def Obligations.CallPushesAndJumps : Prop :=
  ∀ (nnn : Addr12) (s : State), (∀ d, s.config.stackDepth = some d → s.stack.length < d) →
    ∃ t, exec (.call nnn) s = .next t ∧ t.stack = s.pc :: s.stack ∧ t.pc.toNat = nnn.toNat ∧
      ChangesOnly [.pc, .stack] s t

/-- `CALL` with a full stack halts with StackOverflow before anything is pushed and does not jump (the spec's D4). That
a stack with more than `STACK_DEPTH` entries, which no run reaches, counts as full is log 7. -/
def Obligations.CallOverflowHalts : Prop :=
  ∀ (nnn : Addr12) (s : State) (d : Nat), s.config.stackDepth = some d → d ≤ s.stack.length →
    ∃ t, exec (.call nnn) s = .next t ∧ t.halted = true ∧ t.hcause = .stackOverflow ∧
      t.hinfo.toNat = 0x2000 + nnn.toNat ∧ ChangesOnly [.latch] s t

/-- `RET` takes the newest entry as it is; with an empty stack it halts with StackUnderflow, the instruction's word in
`hinfo`, `pc` "not changed by the failed pop", and nothing else changes (R31, R182). -/
def Obligations.ReturnPopsOrHalts : Prop :=
  ∀ s : State,
    (∀ v older, s.stack = v :: older → ∃ t, exec .ret s = .next t ∧ t.pc = v ∧ t.stack = older ∧
      ChangesOnly [.pc, .stack] s t) ∧
    (s.stack = [] → ∃ t, exec .ret s = .next t ∧ t.halted = true ∧ t.hcause = .stackUnderflow ∧
      t.hinfo = (encode .ret).setWidth 17 ∧ ChangesOnly [.latch] s t)

/-- "N nested Subroutine calls followed by N Returns restores PC to its pre-call value; an (N+1)-th Return is fatal": N
calls within the capacity, then, in any state with the stack they left, N returns (10 section 6). -/
def Obligations.NestedCallsReturn : Prop :=
  ∀ (targets : List Addr12) (s : State),
    (∀ d, s.config.stackDepth = some d → s.stack.length + targets.length ≤ d) →
    ∃ t, callAll targets s = .next t ∧ t.stack.length = s.stack.length + targets.length ∧
      ∀ u : State, u.stack = t.stack → ∃ r, retAll targets.length u = .next r ∧ r.stack = s.stack ∧
        (targets ≠ [] → r.pc = s.pc) ∧
        (s.stack = [] → ∃ e, exec .ret r = .next e ∧ e.halted = true ∧ e.hcause = .stackUnderflow)

/-! ### Arithmetic and logic (spec/42_alu.md) -/

/-- `LD Vx, nn`, word 6XNN: any register, VF included; no flag, nothing else (R130). -/
def Obligations.LoadImmediate : Prop :=
  ∀ (x : Nibble) (nn : Byte) (s : State), decode (0x6#4 ++ x ++ nn) = .instr (.ldImm x nn) ∧
    ∃ t, exec (.ldImm x nn) s = .next t ∧ (∀ r, t.reg r = if r = x then nn else s.reg r) ∧ ChangesOnly [.regs] s t

/-- `ADD Vx, nn` wraps modulo 256 and writes no flag (the spec's D18). -/
def Obligations.AddImmediateWraps : Prop :=
  ∀ (x : Nibble) (nn : Byte) (s : State), ∃ t, exec (.addImm x nn) s = .next t ∧
    (∀ r, t.reg r = if r = x then BitVec.ofNat 8 (((s.reg x).toNat + nn.toNat) % 256) else s.reg r) ∧
    ChangesOnly [.regs] s t

/-- Register copy and the three logic instructions, bit by bit: VF keeps its value unless it is the destination (42
section 3; the spec's D30). -/
def Obligations.CopyAndLogic : Prop :=
  ∀ (x y : Nibble) (s : State),
    (∃ t, exec (.ldReg x y) s = .next t ∧ (∀ r, t.reg r = if r = x then s.reg y else s.reg r) ∧
      ChangesOnly [.regs] s t) ∧
    (∃ t, exec (.orReg x y) s = .next t ∧ (∀ r, r ≠ x → t.reg r = s.reg r) ∧
      (∀ k, (t.reg x).getLsbD k = ((s.reg x).getLsbD k || (s.reg y).getLsbD k)) ∧ ChangesOnly [.regs] s t) ∧
    (∃ t, exec (.andReg x y) s = .next t ∧ (∀ r, r ≠ x → t.reg r = s.reg r) ∧
      (∀ k, (t.reg x).getLsbD k = ((s.reg x).getLsbD k && (s.reg y).getLsbD k)) ∧ ChangesOnly [.regs] s t) ∧
    (∃ t, exec (.xorReg x y) s = .next t ∧ (∀ r, r ≠ x → t.reg r = s.reg r) ∧
      (∀ k, (t.reg x).getLsbD k = ((s.reg x).getLsbD k ^^ (s.reg y).getLsbD k)) ∧ ChangesOnly [.regs] s t)

/-- `ADD Vx, Vy`: the sum modulo 256, then VF = carry; with x = F the flag survives (42; the order is the spec's D15).
-/
def Obligations.AddRegistersCarry : Prop :=
  ∀ (x y : Nibble) (s : State), ∃ t, exec (.addReg x y) s = .next t ∧
    (∀ r, t.reg r = if r = 0xF#4 then (if 255 < (s.reg x).toNat + (s.reg y).toNat then 1#8 else 0#8)
      else if r = x then BitVec.ofNat 8 (((s.reg x).toNat + (s.reg y).toNat) % 256) else s.reg r) ∧
    ChangesOnly [.regs] s t

/-- `SUB` and `SUBN`: the difference modulo 256, then VF = not-borrow, 1 on equality; with x = F the flag survives
(42; the order is the spec's D15). -/
def Obligations.SubtractNotBorrow : Prop :=
  ∀ (x y : Nibble) (s : State),
    (∃ t, exec (.sub x y) s = .next t ∧
      (∀ r, t.reg r = if r = 0xF#4 then (if (s.reg x).toNat ≥ (s.reg y).toNat then 1#8 else 0#8)
        else if r = x then BitVec.ofInt 8 (((s.reg x).toNat : Int) - (s.reg y).toNat) else s.reg r) ∧
      ChangesOnly [.regs] s t) ∧
    (∃ t, exec (.subn x y) s = .next t ∧
      (∀ r, t.reg r = if r = 0xF#4 then (if (s.reg y).toNat ≥ (s.reg x).toNat then 1#8 else 0#8)
        else if r = x then BitVec.ofInt 8 (((s.reg y).toNat : Int) - (s.reg x).toNat) else s.reg r) ∧
      ChangesOnly [.regs] s t)

/-- `SHR`: the operand is `V[x]`, or `V[y]` under `SHIFT_USES_VY` (the spec's D17); VF gets its low bit first, then
`V[x]` is read again and shifted, so that with x = F the register ends 0 (the spec's D16). -/
def Obligations.ShiftRightOne : Prop :=
  ∀ (x y : Nibble) (s : State) (v : Byte), v = (if s.config.shiftUsesVy then s.reg y else s.reg x) →
    ∃ t, exec (.shr x y) s = .next t ∧
      (∀ r, t.reg r = if r = x then (if x = 0xF#4 then 0#8 else BitVec.ofNat 8 (v.toNat / 2))
        else if r = 0xF#4 then BitVec.ofNat 8 (v.toNat % 2) else s.reg r) ∧
      ChangesOnly [.regs] s t

/-- `SHL`: as `SHR`, with the high bit and a doubling; with x = F the register ends 2 or 0 (the spec's D16, D17). -/
def Obligations.ShiftLeftOne : Prop :=
  ∀ (x y : Nibble) (s : State) (v : Byte), v = (if s.config.shiftUsesVy then s.reg y else s.reg x) →
    ∃ t, exec (.shl x y) s = .next t ∧
      (∀ r, t.reg r = if r = x then
          (if x = 0xF#4 then BitVec.ofNat 8 (v.toNat / 128 * 2) else BitVec.ofNat 8 (v.toNat * 2 % 256))
        else if r = 0xF#4 then BitVec.ofNat 8 (v.toNat / 128) else s.reg r) ∧
      ChangesOnly [.regs] s t

/-- The flag laws of the source, for every byte pair and every destination but VF, with the default shift source (42
section 1; the reverse subtract by 42 section 4; the default is the spec's D17): "Add
sets the flag to 1 iff a+b > 255; Subtract(vx=a,vy=b) sets the flag to 1 iff a >= b, and stores (a-b) mod 256 into vx",
"Right-shift on value v sets the flag to v & 1 and stores v >> 1; Left-shift sets the flag to (v >> 7) & 1 and stores
(v << 1) mod 256". -/
def Obligations.FlagLaws : Prop :=
  ∀ (x y : Nibble) (s : State) (a b : Byte), x ≠ 0xF#4 → s.config.shiftUsesVy = false → s.reg x = a → s.reg y = b →
    (∃ t, exec (.addReg x y) s = .next t ∧ t.reg 0xF#4 = (if a.toNat + b.toNat > 255 then 1#8 else 0#8) ∧
      (t.reg x).toNat = (a.toNat + b.toNat) % 256 ∧ t.halted = s.halted) ∧
    (∃ t, exec (.sub x y) s = .next t ∧ t.reg 0xF#4 = (if a.toNat ≥ b.toNat then 1#8 else 0#8) ∧
      (t.reg x).toNat = (if a.toNat < b.toNat then a.toNat + 256 - b.toNat else a.toNat - b.toNat) ∧
      t.halted = s.halted) ∧
    (∃ t, exec (.subn x y) s = .next t ∧ t.reg 0xF#4 = (if b.toNat ≥ a.toNat then 1#8 else 0#8) ∧
      (t.reg x).toNat = (if b.toNat < a.toNat then b.toNat + 256 - a.toNat else b.toNat - a.toNat) ∧
      t.halted = s.halted) ∧
    (∃ t, exec (.shr x y) s = .next t ∧ (t.reg 0xF#4).toNat = a.toNat % 2 ∧ (t.reg x).toNat = a.toNat / 2) ∧
    (∃ t, exec (.shl x y) s = .next t ∧ (t.reg 0xF#4).toNat = a.toNat / 128 ∧ (t.reg x).toNat = a.toNat * 2 % 256)

/-- `RND`: the byte presented to the step, whatever it is, masked with `nn` (the operation is the spec's D22; log 1). -/
def Obligations.RandomIsMasked : Prop :=
  ∀ (x : Nibble) (nn : Byte) (s : State), ∃ t, exec (.rnd x nn) s = .next t ∧ (∀ r, r ≠ x → t.reg r = s.reg r) ∧
    (∀ k, (t.reg x).getLsbD k = (s.inp.rnd.getLsbD k && nn.getLsbD k)) ∧ ChangesOnly [.regs] s t

/-! ### Index register and memory (spec/43_index_memory.md) -/

/-- The three loads of `I`: a literal, a sum modulo 65536 without a flag, the glyph of a low nibble (43 section 2; the
spec's D23, D24, D30). -/
def Obligations.IndexWrites : Prop :=
  ∀ (nnn : Addr12) (x : Nibble) (s : State),
    (∃ t, exec (.ldI nnn) s = .next t ∧ t.index.toNat = nnn.toNat ∧ ChangesOnly [.index] s t) ∧
    (∃ t, exec (.addI x) s = .next t ∧ t.index.toNat = (s.index.toNat + (s.reg x).toNat) % 65536 ∧
      ChangesOnly [.index] s t) ∧
    (∃ t, exec (.ldF x) s = .next t ∧ t.index.toNat = 0x50 + 5 * ((s.reg x).toNat % 16) ∧
      ChangesOnly [.index] s t)

/-- `LD B, Vx` in bounds: the three decimal digits at `I`, `I+1`, `I+2`, every other byte as before (43 section 3). -/
def Obligations.BcdStored : Prop :=
  ∀ (x : Nibble) (s : State), s.mem.wf = true → s.index.toNat + 2 ≤ 4095 → ∃ t, exec (.ldB x) s = .next t ∧
    (t.byteAt s.index.toNat).toNat = (s.reg x).toNat / 100 ∧
    (t.byteAt (s.index.toNat + 1)).toNat = (s.reg x).toNat / 10 % 10 ∧
    (t.byteAt (s.index.toNat + 2)).toNat = (s.reg x).toNat % 10 ∧
    (∀ c, c < s.index.toNat ∨ s.index.toNat + 2 < c → t.byteAt c = s.byteAt c) ∧ ChangesOnly [.mem] s t

/-- `LD [I], Vx` in bounds: V0..Vx at `I` up, every other byte as before, `I` and the registers unchanged (43 section
3). -/
def Obligations.RegistersStored : Prop :=
  ∀ (x : Nibble) (s : State), s.mem.wf = true → s.index.toNat + x.toNat ≤ 4095 → ∃ t, exec (.stRegs x) s = .next t ∧
    (∀ r : Nibble, r.toNat ≤ x.toNat → t.byteAt (s.index.toNat + r.toNat) = s.reg r) ∧
    (∀ c, c < s.index.toNat ∨ s.index.toNat + x.toNat < c → t.byteAt c = s.byteAt c) ∧ ChangesOnly [.mem] s t

/-- `LD Vx, [I]` in bounds: V0..Vx from `I` up, the registers above x unchanged, `I` unchanged (43 section 4). -/
def Obligations.RegistersLoaded : Prop :=
  ∀ (x : Nibble) (s : State), s.index.toNat + x.toNat ≤ 4095 → ∃ t, exec (.ldRegs x) s = .next t ∧
    (∀ r : Nibble, t.reg r = if r.toNat ≤ x.toNat then s.byteAt (s.index.toNat + r.toNat) else s.reg r) ∧
    ChangesOnly [.regs] s t

/-- "`ST_REGS` followed by `LD_REGS` with the same `x` and `I` restores V0..Vx", whatever the registers held in between
(43 section 4). -/
def Obligations.StoreThenLoadRestores : Prop :=
  ∀ (x : Nibble) (s : State) (other : Vector Byte 16), s.mem.wf = true → s.index.toNat + x.toNat ≤ 4095 →
    ∃ t u, exec (.stRegs x) s = .next t ∧ exec (.ldRegs x) { t with v := other } = .next u ∧ u.index = s.index ∧
      ∀ r : Nibble, r.toNat ≤ x.toNat → u.reg r = s.reg r

/-- A data range that leaves memory halts with MemoryBound and max(I, 4096), before any change: no byte, no register, no
pixel, no flag is touched; the range of `DRW` is its `min(n, 32 - V[y] mod 32)` rows (the spec's D10, D11, D12). -/
def Obligations.RangeViolationHalts : Prop :=
  ∀ (i : Instr) (s : State),
    ((∃ x, i = .ldB x ∧ 4095 < s.index.toNat + 2) ∨ (∃ x, i = .stRegs x ∧ 4095 < s.index.toNat + x.toNat) ∨
      (∃ x, i = .ldRegs x ∧ 4095 < s.index.toNat + x.toNat) ∨
      ∃ x y n rows, i = .drw x y n ∧ rows = min n.toNat (32 - (s.reg y).toNat % 32) ∧ 0 < rows ∧
        4095 < s.index.toNat + rows - 1) →
    ∃ t, exec i s = .next t ∧ t.halted = true ∧ t.hcause = .memoryBound ∧ t.hinfo.toNat = max s.index.toNat 4096 ∧
      ChangesOnly [.latch] s t

/-- A store into the bytes at `pc` is what the next fetch reads: self-modifying code needs no barrier (20 section 7). -/
def Obligations.StoredCodeIsFetched : Prop :=
  ∀ (x : Nibble) (s : State), s.mem.wf = true → s.index = s.pc → 1 ≤ x.toNat → s.index.toNat + x.toNat ≤ 4095 →
    ∃ t, exec (.stRegs x) s = .next t ∧ t.fetch = .ok (s.reg 0x0#4 ++ s.reg 0x1#4)

/-! ### Display (spec/44_display.md) -/

/-- `CLS` clears every pixel and leaves VF alone (44). -/
def Obligations.ClearScreen : Prop :=
  ∀ s : State, ∃ t, exec .cls s = .next t ∧ (∀ x y, x < 64 → y < 32 → pixel t.fb x y = false) ∧
    ChangesOnly [.fb] s t

/-- `DRW` in bounds: each pixel is flipped exactly if a sprite bit falls on it, with the origin wrapped (`V[x] mod
64`, `V[y] mod 32`) and the body clipped (`min(n, 32 - y0)` rows); VF is 1 if a flipped pixel was set and 0 otherwise;
nothing else changes (44; the spec's D12, D13, D14). -/
def Obligations.DrawFlipsPixels : Prop :=
  ∀ (x y n : Nibble) (s : State) (x0 y0 rows : Nat), x0 = (s.reg x).toNat % 64 → y0 = (s.reg y).toNat % 32 →
    rows = min n.toNat (32 - y0) → rows = 0 ∨ s.index.toNat + rows - 1 ≤ 4095 →
    ∃ t, exec (.drw x y n) s = .next t ∧
      (∀ px py, px < 64 → py < 32 →
        pixel t.fb px py = (pixel s.fb px py ^^ spriteBit s.mem s.index.toNat x0 y0 rows px py)) ∧
      ((∃ px py, px < 64 ∧ py < 32 ∧ spriteBit s.mem s.index.toNat x0 y0 rows px py = true ∧
        pixel s.fb px py = true) → t.reg 0xF#4 = 1#8) ∧
      ((∀ px py, px < 64 → py < 32 → spriteBit s.mem s.index.toNat x0 y0 rows px py = true →
        pixel s.fb px py = false) → t.reg 0xF#4 = 0#8) ∧
      (∀ r, r ≠ 0xF#4 → t.reg r = s.reg r) ∧ ChangesOnly [.regs, .fb] s t

/-- Drawing twice at one position restores every pixel; from a clear screen the second draw collides exactly if some
sprite bit falls on the screen (44, corner cases g and h; the spec's D12, D14). -/
def Obligations.DrawTwiceRestores : Prop :=
  ∀ (x y n : Nibble) (s : State) (x0 y0 rows : Nat), x ≠ 0xF#4 → y ≠ 0xF#4 → x0 = (s.reg x).toNat % 64 →
    y0 = (s.reg y).toNat % 32 → rows = min n.toNat (32 - y0) → rows = 0 ∨ s.index.toNat + rows - 1 ≤ 4095 →
    ∃ t u, exec (.drw x y n) s = .next t ∧ exec (.drw x y n) t = .next u ∧
      (∀ px py, px < 64 → py < 32 → pixel u.fb px py = pixel s.fb px py) ∧
      ((∀ px py, px < 64 → py < 32 → pixel s.fb px py = false) →
        (u.reg 0xF#4 = 1#8 ↔
          ∃ px py, px < 64 ∧ py < 32 ∧ spriteBit s.mem s.index.toNat x0 y0 rows px py = true))

/-! ### Timers and keys (spec/45_timers_keys.md, spec/60_exceptions.md) -/

/-- The three timer transfers (45 section 1; the selectors are the spec's D20). -/
def Obligations.TimerTransfers : Prop :=
  ∀ (x : Nibble) (s : State),
    (∃ t, exec (.ldVxDt x) s = .next t ∧ (∀ r, t.reg r = if r = x then s.dt else s.reg r) ∧ ChangesOnly [.regs] s t) ∧
    (∃ t, exec (.ldDtVx x) s = .next t ∧ t.dt = s.reg x ∧ ChangesOnly [.dt] s t) ∧
    (∃ t, exec (.ldStVx x) s = .next t ∧ t.st = s.reg x ∧ ChangesOnly [.st] s t)

/-- The two key skips on the key of the low nibble (45 section 2; the spec's D25). -/
def Obligations.KeySkips : Prop :=
  ∀ (x : Nibble) (s : State) (held : Bool), held = s.inp.keys.getLsbD ((s.reg x).toNat % 16) →
    (∃ t, exec (.skp x) s = .next t ∧ t.pc = (if held = true then s.pc + 2#16 else s.pc) ∧ ChangesOnly [.pc] s t) ∧
    (∃ t, exec (.sknp x) s = .next t ∧ t.pc = (if held = false then s.pc + 2#16 else s.pc) ∧ ChangesOnly [.pc] s t)

/-- `LD Vx, K` with a key held ends the wait with the lowest held key (45 section 2; the spec's D26). -/
def Obligations.KeyWaitReturnsLowest : Prop :=
  ∀ (x : Nibble) (s : State), s.inp.keys ≠ 0#16 → ∃ t, exec (.ldK x) s = .next t ∧
    (∃ k, k < 16 ∧ s.inp.keys.getLsbD k = true ∧ (∀ j, j < k → s.inp.keys.getLsbD j = false) ∧
      ∀ r, t.reg r = if r = x then BitVec.ofNat 8 k else s.reg r) ∧
    ChangesOnly [.regs] s t

/-- `LD Vx, K` with no key held stalls: it takes `pc` back to its own address and changes nothing else, so that the
whole step leaves the state as the ticks that arrived left it, `pc` included, and emits a `frame` event (45 section 2,
corner case d; the spec's D26; log 1, log 3, log 11). -/
def Obligations.KeyWaitStalls : Prop :=
  (∀ (x : Nibble) (s : State), s.inp.keys = 0#16 →
    ∃ t, exec (.ldK x) s = .next t ∧ t.pc = s.pc - 2#16 ∧ ChangesOnly [.pc] s t) ∧
  ∀ (x : Nibble) (s : State) (w : Word), s.inp.rst = false → s.halted = false → s.pc.toNat ≤ 4094 →
    s.inp.keys = 0#16 → w = s.byteAt s.pc.toNat ++ s.byteAt (s.pc.toNat + 1) → decode w = .instr (.ldK x) →
    step s = .next { s.applyTicks with frames := s.frames + 1 }.renewInputs

/-- One tick of each counter: decremented if nonzero, "never wraps below zero"; a tick of `ST` that finds it nonzero
emits one `sound` event; nothing else changes (R191, R192). -/
def Obligations.TickDecrements : Prop :=
  ∀ s : State,
    (s.tickDT.dt.toNat = s.dt.toNat - 1 ∧ s.tickDT.sounds = s.sounds ∧ s.tickDT.frames = s.frames ∧
      ∀ p, p ≠ .dt → Keeps s s.tickDT p) ∧
    (s.tickST.st.toNat = s.st.toNat - 1 ∧ s.tickST.sounds = (if s.st = 0#8 then s.sounds else s.sounds + 1) ∧
      s.tickST.frames = s.frames ∧ ∀ p, p ≠ .st → Keeps s s.tickST p)

/-- The ticks of a step are single tick steps, in any order: only how many of each there were matters (60 section 4; the
spec's D27; log 3). -/
def Obligations.TicksAreSingleSteps : Prop :=
  ∀ (l : List Tick) (s : State), s.tickAll l = s.ticks (l.count .dt) (l.count .st)

/-- After `LD DT, Vx` and any ticks, `LD Vy, DT` reads the written value less the ticks of `DT`, never below 0 (45
section 1; 20 section 8). -/
def Obligations.DelayTimerCountsDown : Prop :=
  ∀ (x y : Nibble) (s : State) (l : List Tick), ∃ t u, exec (.ldDtVx x) s = .next t ∧
    exec (.ldVxDt y) (t.tickAll l) = .next u ∧ (u.reg y).toNat = (s.reg x).toNat - l.count .dt

/-! ### Halt entry (spec/60_exceptions.md) -/

/-- Halt entry sets the latch and nothing else (60 section 2), and the causes have the codes of 10 section 8 (the spec's
D3). -/
def Obligations.HaltEntrySetsLatch : Prop :=
  (∀ (s : State) (c : HaltCause) (info : HaltInfo), (s.raise c info).halted = true ∧ (s.raise c info).hcause = c ∧
    (s.raise c info).hinfo = info ∧ ChangesOnly [.latch] s (s.raise c info)) ∧
  HaltCause.none.code = 0#3 ∧ HaltCause.decodeGap.code = 1#3 ∧ HaltCause.stackUnderflow.code = 2#3 ∧
  HaltCause.memoryBound.code = 3#3 ∧ HaltCause.loadFailure.code = 4#3 ∧ HaltCause.stackOverflow.code = 5#3
end

