-- ==== Sys2Proof/Laws/Decode.lean ====
section
/-! SUPPORT. The fields of the words the encoder writes, one lemma per field per format. -/

namespace Sys2Proof

open BitVec

@[simp] theorem opField_wordNNN (op : Nibble) (nnn : Addr12) : opField (wordNNN op nnn) = op :=
  extractLsb'_append_eq_left

@[simp] theorem nnnField_wordNNN (op : Nibble) (nnn : Addr12) : nnnField (wordNNN op nnn) = nnn :=
  (extractLsb'_append_eq_of_add_le (by omega)).trans <| extractLsb'_eq_self

@[simp] theorem opField_wordXNN (op x : Nibble) (nn : Byte) : opField (wordXNN op x nn) = op :=
  (extractLsb'_append_eq_of_le (by omega)).trans <| extractLsb'_append_eq_left

@[simp] theorem xField_wordXNN (op x : Nibble) (nn : Byte) : xField (wordXNN op x nn) = x :=
  (extractLsb'_append_eq_of_le (by omega)).trans <| (extractLsb'_append_eq_of_add_le (by omega)).trans <| extractLsb'_eq_self

@[simp] theorem nnField_wordXNN (op x : Nibble) (nn : Byte) : nnField (wordXNN op x nn) = nn :=
  (extractLsb'_append_eq_of_add_le (by omega)).trans <| extractLsb'_eq_self

@[simp] theorem opField_wordXYN (op x y n : Nibble) : opField (wordXYN op x y n) = op :=
  (extractLsb'_append_eq_of_le (by omega)).trans <| (extractLsb'_append_eq_of_le (by omega)).trans <| extractLsb'_append_eq_left

@[simp] theorem xField_wordXYN (op x y n : Nibble) : xField (wordXYN op x y n) = x :=
  (extractLsb'_append_eq_of_le (by omega)).trans <| (extractLsb'_append_eq_of_le (by omega)).trans <| (extractLsb'_append_eq_of_add_le (by omega)).trans <| extractLsb'_eq_self

@[simp] theorem yField_wordXYN (op x y n : Nibble) : yField (wordXYN op x y n) = y :=
  (extractLsb'_append_eq_of_le (by omega)).trans <| (extractLsb'_append_eq_of_add_le (by omega)).trans <| extractLsb'_eq_self

@[simp] theorem nField_wordXYN (op x y n : Nibble) : nField (wordXYN op x y n) = n :=
  (extractLsb'_append_eq_of_add_le (by omega)).trans <| extractLsb'_eq_self

/-- A word is its two bytes, high byte first (spec/30_encoding.md R70). -/
theorem wordOfBytes_bytesOfWord (w : Word) : wordOfBytes (w.extractLsb' 8 8) (w.extractLsb' 0 8) = w := by
  apply eq_of_toNat_eq
  have := w.isLt
  simp only [wordOfBytes, toNat_append, extractLsb'_toNat, Nat.shiftRight_eq_div_pow, Nat.shiftLeft_eq]
  rw [Nat.mul_comm, ← Nat.two_pow_add_eq_or_of_lt (Nat.mod_lt _ (by decide))]
  omega

/-- A word is the fields of format NNN put together (R71: "`nnn` (low 12 bits)"). -/
theorem wordNNN_fields (w : Word) : wordNNN (opField w) (nnnField w) = w := by
  apply eq_of_getLsbD_eq
  intro i hi
  have e : (wordNNN (opField w) (nnnField w)).getLsbD i =
      if i < 12 then (nnnField w).getLsbD i else (opField w).getLsbD (i - 12) := getLsbD_append
  rw [e]
  interval_cases i <;> simp [opField, nnnField]

/-- A word is the fields of format XNN put together. -/
theorem wordXNN_fields (w : Word) : wordXNN (opField w) (xField w) (nnField w) = w := by
  apply eq_of_getLsbD_eq
  intro i hi
  have e : (wordXNN (opField w) (xField w) (nnField w)).getLsbD i =
      if i < 8 then (nnField w).getLsbD i else (opField w ++ xField w).getLsbD (i - 8) := getLsbD_append
  rw [e, getLsbD_append]
  interval_cases i <;> simp [opField, nnField, xField]

/-- A word is the fields of format XYN put together. -/
theorem wordXYN_fields (w : Word) : wordXYN (opField w) (xField w) (yField w) (nField w) = w := by
  apply eq_of_getLsbD_eq
  intro i hi
  have e : (wordXYN (opField w) (xField w) (yField w) (nField w)).getLsbD i =
      if i < 4 then (nField w).getLsbD i else (opField w ++ xField w ++ yField w).getLsbD (i - 4) := getLsbD_append
  rw [e, getLsbD_append, getLsbD_append]
  interval_cases i <;> simp [opField, nField, xField, yField]

end Sys2Proof
end

