-- ==== Sys2Proof/Laws/State.lean ====
section
/-! SUPPORT. One lemma per field per update of State, true by definition: no later proof unfolds a record update. -/

namespace Sys2Proof.Machine

/-! ### setReg -/

@[simp] theorem State.setReg_mem (s : State) (r : Nibble) (b : Byte) : (s.setReg r b).mem = s.mem := rfl
@[simp] theorem State.setReg_index (s : State) (r : Nibble) (b : Byte) : (s.setReg r b).index = s.index := rfl
@[simp] theorem State.setReg_pc (s : State) (r : Nibble) (b : Byte) : (s.setReg r b).pc = s.pc := rfl
@[simp] theorem State.setReg_stack (s : State) (r : Nibble) (b : Byte) : (s.setReg r b).stack = s.stack := rfl
@[simp] theorem State.setReg_fb (s : State) (r : Nibble) (b : Byte) : (s.setReg r b).fb = s.fb := rfl
@[simp] theorem State.setReg_dt (s : State) (r : Nibble) (b : Byte) : (s.setReg r b).dt = s.dt := rfl
@[simp] theorem State.setReg_st (s : State) (r : Nibble) (b : Byte) : (s.setReg r b).st = s.st := rfl
@[simp] theorem State.setReg_halted (s : State) (r : Nibble) (b : Byte) : (s.setReg r b).halted = s.halted := rfl
@[simp] theorem State.setReg_hcause (s : State) (r : Nibble) (b : Byte) : (s.setReg r b).hcause = s.hcause := rfl
@[simp] theorem State.setReg_hinfo (s : State) (r : Nibble) (b : Byte) : (s.setReg r b).hinfo = s.hinfo := rfl
@[simp] theorem State.setReg_config (s : State) (r : Nibble) (b : Byte) : (s.setReg r b).config = s.config := rfl
@[simp] theorem State.setReg_inp (s : State) (r : Nibble) (b : Byte) : (s.setReg r b).inp = s.inp := rfl
@[simp] theorem State.setReg_script (s : State) (r : Nibble) (b : Byte) : (s.setReg r b).script = s.script := rfl
@[simp] theorem State.setReg_inputCount (s : State) (r : Nibble) (b : Byte) : (s.setReg r b).inputCount = s.inputCount := rfl
@[simp] theorem State.setReg_frames (s : State) (r : Nibble) (b : Byte) : (s.setReg r b).frames = s.frames := rfl
@[simp] theorem State.setReg_sounds (s : State) (r : Nibble) (b : Byte) : (s.setReg r b).sounds = s.sounds := rfl
@[simp] theorem State.setReg_byteAt (s : State) (r : Nibble) (b : Byte) (at' : Nat) : (s.setReg r b).byteAt at' = s.byteAt at' := rfl

/-! ### setIndex -/

@[simp] theorem State.setIndex_mem (s : State) (w : Word) : (s.setIndex w).mem = s.mem := rfl
@[simp] theorem State.setIndex_v (s : State) (w : Word) : (s.setIndex w).v = s.v := rfl
@[simp] theorem State.setIndex_index (s : State) (w : Word) : (s.setIndex w).index = w := rfl
@[simp] theorem State.setIndex_pc (s : State) (w : Word) : (s.setIndex w).pc = s.pc := rfl
@[simp] theorem State.setIndex_stack (s : State) (w : Word) : (s.setIndex w).stack = s.stack := rfl
@[simp] theorem State.setIndex_fb (s : State) (w : Word) : (s.setIndex w).fb = s.fb := rfl
@[simp] theorem State.setIndex_dt (s : State) (w : Word) : (s.setIndex w).dt = s.dt := rfl
@[simp] theorem State.setIndex_st (s : State) (w : Word) : (s.setIndex w).st = s.st := rfl
@[simp] theorem State.setIndex_halted (s : State) (w : Word) : (s.setIndex w).halted = s.halted := rfl
@[simp] theorem State.setIndex_hcause (s : State) (w : Word) : (s.setIndex w).hcause = s.hcause := rfl
@[simp] theorem State.setIndex_hinfo (s : State) (w : Word) : (s.setIndex w).hinfo = s.hinfo := rfl
@[simp] theorem State.setIndex_config (s : State) (w : Word) : (s.setIndex w).config = s.config := rfl
@[simp] theorem State.setIndex_inp (s : State) (w : Word) : (s.setIndex w).inp = s.inp := rfl
@[simp] theorem State.setIndex_script (s : State) (w : Word) : (s.setIndex w).script = s.script := rfl
@[simp] theorem State.setIndex_inputCount (s : State) (w : Word) : (s.setIndex w).inputCount = s.inputCount := rfl
@[simp] theorem State.setIndex_frames (s : State) (w : Word) : (s.setIndex w).frames = s.frames := rfl
@[simp] theorem State.setIndex_sounds (s : State) (w : Word) : (s.setIndex w).sounds = s.sounds := rfl
@[simp] theorem State.setIndex_reg (s : State) (w : Word) (q : Nibble) : (s.setIndex w).reg q = s.reg q := rfl
@[simp] theorem State.setIndex_byteAt (s : State) (w : Word) (at' : Nat) : (s.setIndex w).byteAt at' = s.byteAt at' := rfl

/-! ### setPc -/

@[simp] theorem State.setPc_mem (s : State) (w : Word) : (s.setPc w).mem = s.mem := rfl
@[simp] theorem State.setPc_v (s : State) (w : Word) : (s.setPc w).v = s.v := rfl
@[simp] theorem State.setPc_index (s : State) (w : Word) : (s.setPc w).index = s.index := rfl
@[simp] theorem State.setPc_pc (s : State) (w : Word) : (s.setPc w).pc = w := rfl
@[simp] theorem State.setPc_stack (s : State) (w : Word) : (s.setPc w).stack = s.stack := rfl
@[simp] theorem State.setPc_fb (s : State) (w : Word) : (s.setPc w).fb = s.fb := rfl
@[simp] theorem State.setPc_dt (s : State) (w : Word) : (s.setPc w).dt = s.dt := rfl
@[simp] theorem State.setPc_st (s : State) (w : Word) : (s.setPc w).st = s.st := rfl
@[simp] theorem State.setPc_halted (s : State) (w : Word) : (s.setPc w).halted = s.halted := rfl
@[simp] theorem State.setPc_hcause (s : State) (w : Word) : (s.setPc w).hcause = s.hcause := rfl
@[simp] theorem State.setPc_hinfo (s : State) (w : Word) : (s.setPc w).hinfo = s.hinfo := rfl
@[simp] theorem State.setPc_config (s : State) (w : Word) : (s.setPc w).config = s.config := rfl
@[simp] theorem State.setPc_inp (s : State) (w : Word) : (s.setPc w).inp = s.inp := rfl
@[simp] theorem State.setPc_script (s : State) (w : Word) : (s.setPc w).script = s.script := rfl
@[simp] theorem State.setPc_inputCount (s : State) (w : Word) : (s.setPc w).inputCount = s.inputCount := rfl
@[simp] theorem State.setPc_frames (s : State) (w : Word) : (s.setPc w).frames = s.frames := rfl
@[simp] theorem State.setPc_sounds (s : State) (w : Word) : (s.setPc w).sounds = s.sounds := rfl
@[simp] theorem State.setPc_reg (s : State) (w : Word) (q : Nibble) : (s.setPc w).reg q = s.reg q := rfl
@[simp] theorem State.setPc_byteAt (s : State) (w : Word) (at' : Nat) : (s.setPc w).byteAt at' = s.byteAt at' := rfl

/-! ### setDt -/

@[simp] theorem State.setDt_mem (s : State) (b : Byte) : (s.setDt b).mem = s.mem := rfl
@[simp] theorem State.setDt_v (s : State) (b : Byte) : (s.setDt b).v = s.v := rfl
@[simp] theorem State.setDt_index (s : State) (b : Byte) : (s.setDt b).index = s.index := rfl
@[simp] theorem State.setDt_pc (s : State) (b : Byte) : (s.setDt b).pc = s.pc := rfl
@[simp] theorem State.setDt_stack (s : State) (b : Byte) : (s.setDt b).stack = s.stack := rfl
@[simp] theorem State.setDt_fb (s : State) (b : Byte) : (s.setDt b).fb = s.fb := rfl
@[simp] theorem State.setDt_dt (s : State) (b : Byte) : (s.setDt b).dt = b := rfl
@[simp] theorem State.setDt_st (s : State) (b : Byte) : (s.setDt b).st = s.st := rfl
@[simp] theorem State.setDt_halted (s : State) (b : Byte) : (s.setDt b).halted = s.halted := rfl
@[simp] theorem State.setDt_hcause (s : State) (b : Byte) : (s.setDt b).hcause = s.hcause := rfl
@[simp] theorem State.setDt_hinfo (s : State) (b : Byte) : (s.setDt b).hinfo = s.hinfo := rfl
@[simp] theorem State.setDt_config (s : State) (b : Byte) : (s.setDt b).config = s.config := rfl
@[simp] theorem State.setDt_inp (s : State) (b : Byte) : (s.setDt b).inp = s.inp := rfl
@[simp] theorem State.setDt_script (s : State) (b : Byte) : (s.setDt b).script = s.script := rfl
@[simp] theorem State.setDt_inputCount (s : State) (b : Byte) : (s.setDt b).inputCount = s.inputCount := rfl
@[simp] theorem State.setDt_frames (s : State) (b : Byte) : (s.setDt b).frames = s.frames := rfl
@[simp] theorem State.setDt_sounds (s : State) (b : Byte) : (s.setDt b).sounds = s.sounds := rfl
@[simp] theorem State.setDt_reg (s : State) (b : Byte) (q : Nibble) : (s.setDt b).reg q = s.reg q := rfl
@[simp] theorem State.setDt_byteAt (s : State) (b : Byte) (at' : Nat) : (s.setDt b).byteAt at' = s.byteAt at' := rfl

/-! ### setSt -/

@[simp] theorem State.setSt_mem (s : State) (b : Byte) : (s.setSt b).mem = s.mem := rfl
@[simp] theorem State.setSt_v (s : State) (b : Byte) : (s.setSt b).v = s.v := rfl
@[simp] theorem State.setSt_index (s : State) (b : Byte) : (s.setSt b).index = s.index := rfl
@[simp] theorem State.setSt_pc (s : State) (b : Byte) : (s.setSt b).pc = s.pc := rfl
@[simp] theorem State.setSt_stack (s : State) (b : Byte) : (s.setSt b).stack = s.stack := rfl
@[simp] theorem State.setSt_fb (s : State) (b : Byte) : (s.setSt b).fb = s.fb := rfl
@[simp] theorem State.setSt_dt (s : State) (b : Byte) : (s.setSt b).dt = s.dt := rfl
@[simp] theorem State.setSt_st (s : State) (b : Byte) : (s.setSt b).st = b := rfl
@[simp] theorem State.setSt_halted (s : State) (b : Byte) : (s.setSt b).halted = s.halted := rfl
@[simp] theorem State.setSt_hcause (s : State) (b : Byte) : (s.setSt b).hcause = s.hcause := rfl
@[simp] theorem State.setSt_hinfo (s : State) (b : Byte) : (s.setSt b).hinfo = s.hinfo := rfl
@[simp] theorem State.setSt_config (s : State) (b : Byte) : (s.setSt b).config = s.config := rfl
@[simp] theorem State.setSt_inp (s : State) (b : Byte) : (s.setSt b).inp = s.inp := rfl
@[simp] theorem State.setSt_script (s : State) (b : Byte) : (s.setSt b).script = s.script := rfl
@[simp] theorem State.setSt_inputCount (s : State) (b : Byte) : (s.setSt b).inputCount = s.inputCount := rfl
@[simp] theorem State.setSt_frames (s : State) (b : Byte) : (s.setSt b).frames = s.frames := rfl
@[simp] theorem State.setSt_sounds (s : State) (b : Byte) : (s.setSt b).sounds = s.sounds := rfl
@[simp] theorem State.setSt_reg (s : State) (b : Byte) (q : Nibble) : (s.setSt b).reg q = s.reg q := rfl
@[simp] theorem State.setSt_byteAt (s : State) (b : Byte) (at' : Nat) : (s.setSt b).byteAt at' = s.byteAt at' := rfl

/-! ### setFb -/

@[simp] theorem State.setFb_mem (s : State) (f : Framebuffer) : (s.setFb f).mem = s.mem := rfl
@[simp] theorem State.setFb_v (s : State) (f : Framebuffer) : (s.setFb f).v = s.v := rfl
@[simp] theorem State.setFb_index (s : State) (f : Framebuffer) : (s.setFb f).index = s.index := rfl
@[simp] theorem State.setFb_pc (s : State) (f : Framebuffer) : (s.setFb f).pc = s.pc := rfl
@[simp] theorem State.setFb_stack (s : State) (f : Framebuffer) : (s.setFb f).stack = s.stack := rfl
@[simp] theorem State.setFb_fb (s : State) (f : Framebuffer) : (s.setFb f).fb = f := rfl
@[simp] theorem State.setFb_dt (s : State) (f : Framebuffer) : (s.setFb f).dt = s.dt := rfl
@[simp] theorem State.setFb_st (s : State) (f : Framebuffer) : (s.setFb f).st = s.st := rfl
@[simp] theorem State.setFb_halted (s : State) (f : Framebuffer) : (s.setFb f).halted = s.halted := rfl
@[simp] theorem State.setFb_hcause (s : State) (f : Framebuffer) : (s.setFb f).hcause = s.hcause := rfl
@[simp] theorem State.setFb_hinfo (s : State) (f : Framebuffer) : (s.setFb f).hinfo = s.hinfo := rfl
@[simp] theorem State.setFb_config (s : State) (f : Framebuffer) : (s.setFb f).config = s.config := rfl
@[simp] theorem State.setFb_inp (s : State) (f : Framebuffer) : (s.setFb f).inp = s.inp := rfl
@[simp] theorem State.setFb_script (s : State) (f : Framebuffer) : (s.setFb f).script = s.script := rfl
@[simp] theorem State.setFb_inputCount (s : State) (f : Framebuffer) : (s.setFb f).inputCount = s.inputCount := rfl
@[simp] theorem State.setFb_frames (s : State) (f : Framebuffer) : (s.setFb f).frames = s.frames := rfl
@[simp] theorem State.setFb_sounds (s : State) (f : Framebuffer) : (s.setFb f).sounds = s.sounds := rfl
@[simp] theorem State.setFb_reg (s : State) (f : Framebuffer) (q : Nibble) : (s.setFb f).reg q = s.reg q := rfl
@[simp] theorem State.setFb_byteAt (s : State) (f : Framebuffer) (at' : Nat) : (s.setFb f).byteAt at' = s.byteAt at' := rfl

/-! ### setMem -/

@[simp] theorem State.setMem_mem (s : State) (m : Memory) : (s.setMem m).mem = m := rfl
@[simp] theorem State.setMem_v (s : State) (m : Memory) : (s.setMem m).v = s.v := rfl
@[simp] theorem State.setMem_index (s : State) (m : Memory) : (s.setMem m).index = s.index := rfl
@[simp] theorem State.setMem_pc (s : State) (m : Memory) : (s.setMem m).pc = s.pc := rfl
@[simp] theorem State.setMem_stack (s : State) (m : Memory) : (s.setMem m).stack = s.stack := rfl
@[simp] theorem State.setMem_fb (s : State) (m : Memory) : (s.setMem m).fb = s.fb := rfl
@[simp] theorem State.setMem_dt (s : State) (m : Memory) : (s.setMem m).dt = s.dt := rfl
@[simp] theorem State.setMem_st (s : State) (m : Memory) : (s.setMem m).st = s.st := rfl
@[simp] theorem State.setMem_halted (s : State) (m : Memory) : (s.setMem m).halted = s.halted := rfl
@[simp] theorem State.setMem_hcause (s : State) (m : Memory) : (s.setMem m).hcause = s.hcause := rfl
@[simp] theorem State.setMem_hinfo (s : State) (m : Memory) : (s.setMem m).hinfo = s.hinfo := rfl
@[simp] theorem State.setMem_config (s : State) (m : Memory) : (s.setMem m).config = s.config := rfl
@[simp] theorem State.setMem_inp (s : State) (m : Memory) : (s.setMem m).inp = s.inp := rfl
@[simp] theorem State.setMem_script (s : State) (m : Memory) : (s.setMem m).script = s.script := rfl
@[simp] theorem State.setMem_inputCount (s : State) (m : Memory) : (s.setMem m).inputCount = s.inputCount := rfl
@[simp] theorem State.setMem_frames (s : State) (m : Memory) : (s.setMem m).frames = s.frames := rfl
@[simp] theorem State.setMem_sounds (s : State) (m : Memory) : (s.setMem m).sounds = s.sounds := rfl
@[simp] theorem State.setMem_reg (s : State) (m : Memory) (q : Nibble) : (s.setMem m).reg q = s.reg q := rfl

/-! ### setStack -/

@[simp] theorem State.setStack_mem (s : State) (l : List Word) : (s.setStack l).mem = s.mem := rfl
@[simp] theorem State.setStack_v (s : State) (l : List Word) : (s.setStack l).v = s.v := rfl
@[simp] theorem State.setStack_index (s : State) (l : List Word) : (s.setStack l).index = s.index := rfl
@[simp] theorem State.setStack_pc (s : State) (l : List Word) : (s.setStack l).pc = s.pc := rfl
@[simp] theorem State.setStack_stack (s : State) (l : List Word) : (s.setStack l).stack = l := rfl
@[simp] theorem State.setStack_fb (s : State) (l : List Word) : (s.setStack l).fb = s.fb := rfl
@[simp] theorem State.setStack_dt (s : State) (l : List Word) : (s.setStack l).dt = s.dt := rfl
@[simp] theorem State.setStack_st (s : State) (l : List Word) : (s.setStack l).st = s.st := rfl
@[simp] theorem State.setStack_halted (s : State) (l : List Word) : (s.setStack l).halted = s.halted := rfl
@[simp] theorem State.setStack_hcause (s : State) (l : List Word) : (s.setStack l).hcause = s.hcause := rfl
@[simp] theorem State.setStack_hinfo (s : State) (l : List Word) : (s.setStack l).hinfo = s.hinfo := rfl
@[simp] theorem State.setStack_config (s : State) (l : List Word) : (s.setStack l).config = s.config := rfl
@[simp] theorem State.setStack_inp (s : State) (l : List Word) : (s.setStack l).inp = s.inp := rfl
@[simp] theorem State.setStack_script (s : State) (l : List Word) : (s.setStack l).script = s.script := rfl
@[simp] theorem State.setStack_inputCount (s : State) (l : List Word) : (s.setStack l).inputCount = s.inputCount := rfl
@[simp] theorem State.setStack_frames (s : State) (l : List Word) : (s.setStack l).frames = s.frames := rfl
@[simp] theorem State.setStack_sounds (s : State) (l : List Word) : (s.setStack l).sounds = s.sounds := rfl
@[simp] theorem State.setStack_reg (s : State) (l : List Word) (q : Nibble) : (s.setStack l).reg q = s.reg q := rfl
@[simp] theorem State.setStack_byteAt (s : State) (l : List Word) (at' : Nat) : (s.setStack l).byteAt at' = s.byteAt at' := rfl

/-! ### advance -/

@[simp] theorem State.advance_mem (s : State) : (s.advance).mem = s.mem := rfl
@[simp] theorem State.advance_v (s : State) : (s.advance).v = s.v := rfl
@[simp] theorem State.advance_index (s : State) : (s.advance).index = s.index := rfl
@[simp] theorem State.advance_pc (s : State) : (s.advance).pc = s.pc + 2#16 := rfl
@[simp] theorem State.advance_stack (s : State) : (s.advance).stack = s.stack := rfl
@[simp] theorem State.advance_fb (s : State) : (s.advance).fb = s.fb := rfl
@[simp] theorem State.advance_dt (s : State) : (s.advance).dt = s.dt := rfl
@[simp] theorem State.advance_st (s : State) : (s.advance).st = s.st := rfl
@[simp] theorem State.advance_halted (s : State) : (s.advance).halted = s.halted := rfl
@[simp] theorem State.advance_hcause (s : State) : (s.advance).hcause = s.hcause := rfl
@[simp] theorem State.advance_hinfo (s : State) : (s.advance).hinfo = s.hinfo := rfl
@[simp] theorem State.advance_config (s : State) : (s.advance).config = s.config := rfl
@[simp] theorem State.advance_inp (s : State) : (s.advance).inp = s.inp := rfl
@[simp] theorem State.advance_script (s : State) : (s.advance).script = s.script := rfl
@[simp] theorem State.advance_inputCount (s : State) : (s.advance).inputCount = s.inputCount := rfl
@[simp] theorem State.advance_frames (s : State) : (s.advance).frames = s.frames := rfl
@[simp] theorem State.advance_sounds (s : State) : (s.advance).sounds = s.sounds := rfl
@[simp] theorem State.advance_reg (s : State) (q : Nibble) : (s.advance).reg q = s.reg q := rfl
@[simp] theorem State.advance_byteAt (s : State) (at' : Nat) : (s.advance).byteAt at' = s.byteAt at' := rfl

/-! ### raise -/

@[simp] theorem State.raise_mem (s : State) (c : HaltCause) (i : HaltInfo) : (s.raise c i).mem = s.mem := rfl
@[simp] theorem State.raise_v (s : State) (c : HaltCause) (i : HaltInfo) : (s.raise c i).v = s.v := rfl
@[simp] theorem State.raise_index (s : State) (c : HaltCause) (i : HaltInfo) : (s.raise c i).index = s.index := rfl
@[simp] theorem State.raise_pc (s : State) (c : HaltCause) (i : HaltInfo) : (s.raise c i).pc = s.pc := rfl
@[simp] theorem State.raise_stack (s : State) (c : HaltCause) (i : HaltInfo) : (s.raise c i).stack = s.stack := rfl
@[simp] theorem State.raise_fb (s : State) (c : HaltCause) (i : HaltInfo) : (s.raise c i).fb = s.fb := rfl
@[simp] theorem State.raise_dt (s : State) (c : HaltCause) (i : HaltInfo) : (s.raise c i).dt = s.dt := rfl
@[simp] theorem State.raise_st (s : State) (c : HaltCause) (i : HaltInfo) : (s.raise c i).st = s.st := rfl
@[simp] theorem State.raise_config (s : State) (c : HaltCause) (i : HaltInfo) : (s.raise c i).config = s.config := rfl
@[simp] theorem State.raise_inp (s : State) (c : HaltCause) (i : HaltInfo) : (s.raise c i).inp = s.inp := rfl
@[simp] theorem State.raise_script (s : State) (c : HaltCause) (i : HaltInfo) : (s.raise c i).script = s.script := rfl
@[simp] theorem State.raise_inputCount (s : State) (c : HaltCause) (i : HaltInfo) : (s.raise c i).inputCount = s.inputCount := rfl
@[simp] theorem State.raise_frames (s : State) (c : HaltCause) (i : HaltInfo) : (s.raise c i).frames = s.frames := rfl
@[simp] theorem State.raise_sounds (s : State) (c : HaltCause) (i : HaltInfo) : (s.raise c i).sounds = s.sounds := rfl
@[simp] theorem State.raise_halted (s : State) (c : HaltCause) (i : HaltInfo) : (s.raise c i).halted = true := rfl
@[simp] theorem State.raise_hcause (s : State) (c : HaltCause) (i : HaltInfo) : (s.raise c i).hcause = c := rfl
@[simp] theorem State.raise_hinfo (s : State) (c : HaltCause) (i : HaltInfo) : (s.raise c i).hinfo = i := rfl
@[simp] theorem State.raise_reg (s : State) (c : HaltCause) (i : HaltInfo) (q : Nibble) : (s.raise c i).reg q = s.reg q := rfl
@[simp] theorem State.raise_byteAt (s : State) (c : HaltCause) (i : HaltInfo) (at' : Nat) : (s.raise c i).byteAt at' = s.byteAt at' := rfl

/-! ### storeBytes -/

@[simp] theorem State.storeBytes_mem (s : State) (a : Nat) (bs : List Byte) : (s.storeBytes a bs).mem = s.mem.writeBytes a bs := rfl
@[simp] theorem State.storeBytes_v (s : State) (a : Nat) (bs : List Byte) : (s.storeBytes a bs).v = s.v := rfl
@[simp] theorem State.storeBytes_index (s : State) (a : Nat) (bs : List Byte) : (s.storeBytes a bs).index = s.index := rfl
@[simp] theorem State.storeBytes_pc (s : State) (a : Nat) (bs : List Byte) : (s.storeBytes a bs).pc = s.pc := rfl
@[simp] theorem State.storeBytes_stack (s : State) (a : Nat) (bs : List Byte) : (s.storeBytes a bs).stack = s.stack := rfl
@[simp] theorem State.storeBytes_fb (s : State) (a : Nat) (bs : List Byte) : (s.storeBytes a bs).fb = s.fb := rfl
@[simp] theorem State.storeBytes_dt (s : State) (a : Nat) (bs : List Byte) : (s.storeBytes a bs).dt = s.dt := rfl
@[simp] theorem State.storeBytes_st (s : State) (a : Nat) (bs : List Byte) : (s.storeBytes a bs).st = s.st := rfl
@[simp] theorem State.storeBytes_halted (s : State) (a : Nat) (bs : List Byte) : (s.storeBytes a bs).halted = s.halted := rfl
@[simp] theorem State.storeBytes_hcause (s : State) (a : Nat) (bs : List Byte) : (s.storeBytes a bs).hcause = s.hcause := rfl
@[simp] theorem State.storeBytes_hinfo (s : State) (a : Nat) (bs : List Byte) : (s.storeBytes a bs).hinfo = s.hinfo := rfl
@[simp] theorem State.storeBytes_config (s : State) (a : Nat) (bs : List Byte) : (s.storeBytes a bs).config = s.config := rfl
@[simp] theorem State.storeBytes_inp (s : State) (a : Nat) (bs : List Byte) : (s.storeBytes a bs).inp = s.inp := rfl
@[simp] theorem State.storeBytes_script (s : State) (a : Nat) (bs : List Byte) : (s.storeBytes a bs).script = s.script := rfl
@[simp] theorem State.storeBytes_inputCount (s : State) (a : Nat) (bs : List Byte) : (s.storeBytes a bs).inputCount = s.inputCount := rfl
@[simp] theorem State.storeBytes_frames (s : State) (a : Nat) (bs : List Byte) : (s.storeBytes a bs).frames = s.frames := rfl
@[simp] theorem State.storeBytes_sounds (s : State) (a : Nat) (bs : List Byte) : (s.storeBytes a bs).sounds = s.sounds := rfl
@[simp] theorem State.storeBytes_reg (s : State) (a : Nat) (bs : List Byte) (q : Nibble) : (s.storeBytes a bs).reg q = s.reg q := rfl

/-! ### ticks -/

@[simp] theorem State.ticks_mem (s : State) (k m : Nat) : (s.ticks k m).mem = s.mem := rfl
@[simp] theorem State.ticks_v (s : State) (k m : Nat) : (s.ticks k m).v = s.v := rfl
@[simp] theorem State.ticks_index (s : State) (k m : Nat) : (s.ticks k m).index = s.index := rfl
@[simp] theorem State.ticks_pc (s : State) (k m : Nat) : (s.ticks k m).pc = s.pc := rfl
@[simp] theorem State.ticks_stack (s : State) (k m : Nat) : (s.ticks k m).stack = s.stack := rfl
@[simp] theorem State.ticks_fb (s : State) (k m : Nat) : (s.ticks k m).fb = s.fb := rfl
@[simp] theorem State.ticks_halted (s : State) (k m : Nat) : (s.ticks k m).halted = s.halted := rfl
@[simp] theorem State.ticks_hcause (s : State) (k m : Nat) : (s.ticks k m).hcause = s.hcause := rfl
@[simp] theorem State.ticks_hinfo (s : State) (k m : Nat) : (s.ticks k m).hinfo = s.hinfo := rfl
@[simp] theorem State.ticks_config (s : State) (k m : Nat) : (s.ticks k m).config = s.config := rfl
@[simp] theorem State.ticks_inp (s : State) (k m : Nat) : (s.ticks k m).inp = s.inp := rfl
@[simp] theorem State.ticks_script (s : State) (k m : Nat) : (s.ticks k m).script = s.script := rfl
@[simp] theorem State.ticks_inputCount (s : State) (k m : Nat) : (s.ticks k m).inputCount = s.inputCount := rfl
@[simp] theorem State.ticks_frames (s : State) (k m : Nat) : (s.ticks k m).frames = s.frames := rfl
@[simp] theorem State.ticks_dt (s : State) (k m : Nat) : (s.ticks k m).dt = countDown s.dt k := rfl
@[simp] theorem State.ticks_st (s : State) (k m : Nat) : (s.ticks k m).st = countDown s.st m := rfl
@[simp] theorem State.ticks_sounds (s : State) (k m : Nat) :
    (s.ticks k m).sounds = s.sounds + liveTicks s.st m := rfl
@[simp] theorem State.ticks_reg (s : State) (k m : Nat) (q : Nibble) : (s.ticks k m).reg q = s.reg q := rfl
@[simp] theorem State.ticks_byteAt (s : State) (k m : Nat) (at' : Nat) : (s.ticks k m).byteAt at' = s.byteAt at' := rfl

/-! ### present -/

@[simp] theorem State.present_mem (s : State) : s.present.mem = s.mem := by unfold State.present; split <;> rfl
@[simp] theorem State.present_v (s : State) : s.present.v = s.v := by unfold State.present; split <;> rfl
@[simp] theorem State.present_index (s : State) : s.present.index = s.index := by unfold State.present; split <;> rfl
@[simp] theorem State.present_pc (s : State) : s.present.pc = s.pc := by unfold State.present; split <;> rfl
@[simp] theorem State.present_stack (s : State) : s.present.stack = s.stack := by unfold State.present; split <;> rfl
@[simp] theorem State.present_fb (s : State) : s.present.fb = s.fb := by unfold State.present; split <;> rfl
@[simp] theorem State.present_dt (s : State) : s.present.dt = s.dt := by unfold State.present; split <;> rfl
@[simp] theorem State.present_st (s : State) : s.present.st = s.st := by unfold State.present; split <;> rfl
@[simp] theorem State.present_halted (s : State) : s.present.halted = s.halted := by unfold State.present; split <;> rfl
@[simp] theorem State.present_hcause (s : State) : s.present.hcause = s.hcause := by unfold State.present; split <;> rfl
@[simp] theorem State.present_hinfo (s : State) : s.present.hinfo = s.hinfo := by unfold State.present; split <;> rfl
@[simp] theorem State.present_config (s : State) : s.present.config = s.config := by unfold State.present; split <;> rfl
@[simp] theorem State.present_inp (s : State) : s.present.inp = s.inp := by unfold State.present; split <;> rfl
@[simp] theorem State.present_script (s : State) : s.present.script = s.script := by unfold State.present; split <;> rfl
@[simp] theorem State.present_inputCount (s : State) : s.present.inputCount = s.inputCount := by unfold State.present; split <;> rfl
@[simp] theorem State.present_sounds (s : State) : s.present.sounds = s.sounds := by unfold State.present; split <;> rfl
@[simp] theorem State.present_reg (s : State) (q : Nibble) : s.present.reg q = s.reg q := by simp [State.reg]
@[simp] theorem State.present_byteAt (s : State) (a : Nat) : s.present.byteAt a = s.byteAt a := by simp [State.byteAt]

/-! ### renewInputs -/

@[simp] theorem State.renewInputs_mem (s : State) : s.renewInputs.mem = s.mem := by unfold State.renewInputs; split <;> rfl
@[simp] theorem State.renewInputs_v (s : State) : s.renewInputs.v = s.v := by unfold State.renewInputs; split <;> rfl
@[simp] theorem State.renewInputs_index (s : State) : s.renewInputs.index = s.index := by unfold State.renewInputs; split <;> rfl
@[simp] theorem State.renewInputs_pc (s : State) : s.renewInputs.pc = s.pc := by unfold State.renewInputs; split <;> rfl
@[simp] theorem State.renewInputs_stack (s : State) : s.renewInputs.stack = s.stack := by unfold State.renewInputs; split <;> rfl
@[simp] theorem State.renewInputs_fb (s : State) : s.renewInputs.fb = s.fb := by unfold State.renewInputs; split <;> rfl
@[simp] theorem State.renewInputs_dt (s : State) : s.renewInputs.dt = s.dt := by unfold State.renewInputs; split <;> rfl
@[simp] theorem State.renewInputs_st (s : State) : s.renewInputs.st = s.st := by unfold State.renewInputs; split <;> rfl
@[simp] theorem State.renewInputs_halted (s : State) : s.renewInputs.halted = s.halted := by unfold State.renewInputs; split <;> rfl
@[simp] theorem State.renewInputs_hcause (s : State) : s.renewInputs.hcause = s.hcause := by unfold State.renewInputs; split <;> rfl
@[simp] theorem State.renewInputs_hinfo (s : State) : s.renewInputs.hinfo = s.hinfo := by unfold State.renewInputs; split <;> rfl
@[simp] theorem State.renewInputs_config (s : State) : s.renewInputs.config = s.config := by unfold State.renewInputs; split <;> rfl
@[simp] theorem State.renewInputs_frames (s : State) : s.renewInputs.frames = s.frames := by unfold State.renewInputs; split <;> rfl
@[simp] theorem State.renewInputs_sounds (s : State) : s.renewInputs.sounds = s.sounds := by unfold State.renewInputs; split <;> rfl
@[simp] theorem State.renewInputs_reg (s : State) (q : Nibble) : s.renewInputs.reg q = s.reg q := by simp [State.reg]
@[simp] theorem State.renewInputs_byteAt (s : State) (a : Nat) : s.renewInputs.byteAt a = s.byteAt a := by simp [State.byteAt]

theorem State.present_frames (s : State) : s.present.frames = if s.halted then s.frames else s.frames + 1 := by
  unfold State.present; split <;> rfl

/-! ### Reset -/

@[simp] theorem State.toReset_mem (s : State) : s.toReset.mem = s.mem := rfl
@[simp] theorem State.toReset_v (s : State) : s.toReset.v = State.reset.v := rfl
@[simp] theorem State.toReset_index (s : State) : s.toReset.index = State.reset.index := rfl
@[simp] theorem State.toReset_pc (s : State) : s.toReset.pc = State.reset.pc := rfl
@[simp] theorem State.toReset_stack (s : State) : s.toReset.stack = State.reset.stack := rfl
@[simp] theorem State.toReset_fb (s : State) : s.toReset.fb = State.reset.fb := rfl
@[simp] theorem State.toReset_dt (s : State) : s.toReset.dt = State.reset.dt := rfl
@[simp] theorem State.toReset_st (s : State) : s.toReset.st = State.reset.st := rfl
@[simp] theorem State.toReset_halted (s : State) : s.toReset.halted = State.reset.halted := rfl
@[simp] theorem State.toReset_hcause (s : State) : s.toReset.hcause = State.reset.hcause := rfl
@[simp] theorem State.toReset_hinfo (s : State) : s.toReset.hinfo = State.reset.hinfo := rfl
@[simp] theorem State.toReset_config (s : State) : s.toReset.config = s.config := rfl
@[simp] theorem State.toReset_inp (s : State) : s.toReset.inp = s.inp := rfl
@[simp] theorem State.toReset_script (s : State) : s.toReset.script = s.script := rfl
@[simp] theorem State.toReset_inputCount (s : State) : s.toReset.inputCount = s.inputCount := rfl
@[simp] theorem State.toReset_frames (s : State) : s.toReset.frames = State.reset.frames := rfl
@[simp] theorem State.toReset_sounds (s : State) : s.toReset.sounds = State.reset.sounds := rfl
@[simp] theorem State.holdReset_mem (s : State) : s.holdReset.mem = loadPort s.mem s.inp.load := rfl
@[simp] theorem State.holdReset_v (s : State) : s.holdReset.v = s.toReset.v := rfl
@[simp] theorem State.holdReset_index (s : State) : s.holdReset.index = s.toReset.index := rfl
@[simp] theorem State.holdReset_pc (s : State) : s.holdReset.pc = s.toReset.pc := rfl
@[simp] theorem State.holdReset_stack (s : State) : s.holdReset.stack = s.toReset.stack := rfl
@[simp] theorem State.holdReset_fb (s : State) : s.holdReset.fb = s.toReset.fb := rfl
@[simp] theorem State.holdReset_dt (s : State) : s.holdReset.dt = s.toReset.dt := rfl
@[simp] theorem State.holdReset_st (s : State) : s.holdReset.st = s.toReset.st := rfl
@[simp] theorem State.holdReset_halted (s : State) : s.holdReset.halted = s.toReset.halted := rfl
@[simp] theorem State.holdReset_hcause (s : State) : s.holdReset.hcause = s.toReset.hcause := rfl
@[simp] theorem State.holdReset_hinfo (s : State) : s.holdReset.hinfo = s.toReset.hinfo := rfl
@[simp] theorem State.holdReset_config (s : State) : s.holdReset.config = s.toReset.config := rfl
@[simp] theorem State.holdReset_inp (s : State) : s.holdReset.inp = s.toReset.inp := rfl
@[simp] theorem State.holdReset_script (s : State) : s.holdReset.script = s.toReset.script := rfl
@[simp] theorem State.holdReset_inputCount (s : State) : s.holdReset.inputCount = s.toReset.inputCount := rfl
@[simp] theorem State.holdReset_frames (s : State) : s.holdReset.frames = s.toReset.frames := rfl
@[simp] theorem State.holdReset_sounds (s : State) : s.holdReset.sounds = s.toReset.sounds := rfl

/-! ### Registers -/

/-- A write of a register is read back there and nowhere else. -/
@[simp] theorem State.reg_setReg (s : State) (r q : Nibble) (b : Byte) :
    (s.setReg r b).reg q = if q = r then b else s.reg q := by
  by_cases h : q = r
  · subst h; simp [State.reg, State.setReg]
  · have : r.toNat ≠ q.toNat := fun e => h (BitVec.eq_of_toNat_eq e.symm)
    simp [State.reg, State.setReg, h, this]

/-- The same for the flag. -/
@[simp] theorem State.reg_setFlag (s : State) (b : Bool) (q : Nibble) :
    (s.setFlag b).reg q = if q = regF then flagByte b else s.reg q := by
  simp [State.setFlag]

@[simp] theorem State.setFlag_mem (s : State) (b : Bool) : (s.setFlag b).mem = s.mem := rfl
@[simp] theorem State.setFlag_index (s : State) (b : Bool) : (s.setFlag b).index = s.index := rfl
@[simp] theorem State.setFlag_pc (s : State) (b : Bool) : (s.setFlag b).pc = s.pc := rfl
@[simp] theorem State.setFlag_stack (s : State) (b : Bool) : (s.setFlag b).stack = s.stack := rfl
@[simp] theorem State.setFlag_fb (s : State) (b : Bool) : (s.setFlag b).fb = s.fb := rfl
@[simp] theorem State.setFlag_dt (s : State) (b : Bool) : (s.setFlag b).dt = s.dt := rfl
@[simp] theorem State.setFlag_st (s : State) (b : Bool) : (s.setFlag b).st = s.st := rfl
@[simp] theorem State.setFlag_halted (s : State) (b : Bool) : (s.setFlag b).halted = s.halted := rfl
@[simp] theorem State.setFlag_hcause (s : State) (b : Bool) : (s.setFlag b).hcause = s.hcause := rfl
@[simp] theorem State.setFlag_hinfo (s : State) (b : Bool) : (s.setFlag b).hinfo = s.hinfo := rfl
@[simp] theorem State.setFlag_config (s : State) (b : Bool) : (s.setFlag b).config = s.config := rfl
@[simp] theorem State.setFlag_inp (s : State) (b : Bool) : (s.setFlag b).inp = s.inp := rfl
@[simp] theorem State.setFlag_script (s : State) (b : Bool) : (s.setFlag b).script = s.script := rfl
@[simp] theorem State.setFlag_inputCount (s : State) (b : Bool) : (s.setFlag b).inputCount = s.inputCount := rfl
@[simp] theorem State.setFlag_frames (s : State) (b : Bool) : (s.setFlag b).frames = s.frames := rfl
@[simp] theorem State.setFlag_sounds (s : State) (b : Bool) : (s.setFlag b).sounds = s.sounds := rfl
@[simp] theorem State.setFlag_byteAt (s : State) (b : Bool) (a : Nat) : (s.setFlag b).byteAt a = s.byteAt a := rfl

end Sys2Proof.Machine
end

