-- ==== Sys2Proof/Laws/Memory.lean ====
section
/-! SUPPORT. Memory: a write is read back there and nowhere else, and every operation keeps the canonical form. -/

namespace Sys2Proof.Machine

/-- Below the first address of a canonical list every byte is unlisted. -/
theorem Memory.read_of_wfFrom {lo : Nat} {m : Memory} (h : Memory.wfFrom lo m = true) {a : Nat} (ha : a < lo) :
    m.read a = Memory.unlisted a := by
  induction m generalizing lo with
  | nil => rfl
  | cons c rest ih =>
    obtain ⟨k, b⟩ := c
    simp only [Memory.wfFrom, Bool.and_eq_true, decide_eq_true_eq] at h
    have hk : k ≠ a := by omega
    simp only [Memory.read, hk, if_false]
    exact ih h.2 (by omega)

theorem Memory.wfFrom_mono {lo lo' : Nat} {m : Memory} (h : Memory.wfFrom lo m = true) (hl : lo' ≤ lo) :
    Memory.wfFrom lo' m = true := by
  cases m with
  | nil => rfl
  | cons c rest =>
    obtain ⟨k, b⟩ := c
    simp only [Memory.wfFrom, Bool.and_eq_true, decide_eq_true_eq] at h ⊢
    exact ⟨⟨⟨by omega, h.1.1.2⟩, h.1.2⟩, h.2⟩

theorem Memory.read_insert {lo : Nat} {m : Memory} (h : Memory.wfFrom lo m = true) (a : Nat) (b : Byte) (c : Nat) :
    (Memory.insert m a b).read c = if c = a then b else m.read c := by
  induction m generalizing lo with
  | nil =>
    simp only [Memory.insert]
    split <;> rename_i hb <;> by_cases hc : c = a
    · subst hc; simp [Memory.read, hb]
    · simp [hc]
    · subst hc; simp [Memory.read]
    · simp [Memory.read, hc, Ne.symm hc]
  | cons d rest ih =>
    obtain ⟨k, x⟩ := d
    simp only [Memory.wfFrom, Bool.and_eq_true, decide_eq_true_eq] at h
    have hrest : ∀ e, e < k + 1 → Memory.read rest e = Memory.unlisted e := fun e he =>
      Memory.read_of_wfFrom h.2 he
    simp only [Memory.insert]
    split
    · rename_i hlt
      have hne : k ≠ a := by omega
      split <;> rename_i hb <;> by_cases hc : c = a
      · subst hc; simp [Memory.read, hne, hrest c (by omega), hb]
      · simp [hc]
      · subst hc; simp [Memory.read]
      · simp [Memory.read, hc, eq_comm, Ne.symm hc]
    · split
      · rename_i _ heq
        subst heq
        split <;> rename_i hb <;> by_cases hc : c = a
        · subst hc; simp [hrest c (by omega), hb]
        · simp [Memory.read, hc, Ne.symm hc]
        · subst hc; simp [Memory.read]
        · simp [Memory.read, hc, Ne.symm hc]
      · rename_i hge hne
        by_cases hk : k = c
        · subst hk; simp [Memory.read, Ne.symm hne]
        · simp [Memory.read, hk, ih h.2]

theorem Memory.wfFrom_insert {lo : Nat} {m : Memory} (h : Memory.wfFrom lo m = true) {a : Nat} (b : Byte)
    (hlo : lo ≤ a) (ha : a ≤ 4095) : Memory.wfFrom lo (Memory.insert m a b) = true := by
  induction m generalizing lo with
  | nil =>
    simp only [Memory.insert]
    split <;> simp_all [Memory.wfFrom]
  | cons d rest ih =>
    obtain ⟨k, x⟩ := d
    have h' := h
    simp only [Memory.wfFrom, Bool.and_eq_true, decide_eq_true_eq] at h
    simp only [Memory.insert]
    split
    · rename_i hlt
      split
      · exact h'
      · rename_i hb
        simp only [Memory.wfFrom, Bool.and_eq_true, decide_eq_true_eq, bne_iff_ne]
        refine ⟨⟨⟨hlo, ha⟩, hb⟩, ⟨⟨by omega, h.1.1.2⟩, by simpa using h.1.2⟩, h.2⟩
    · split
      · rename_i _ heq
        subst heq
        split
        · exact Memory.wfFrom_mono h.2 (by omega)
        · rename_i hb
          simp only [Memory.wfFrom, Bool.and_eq_true, decide_eq_true_eq, bne_iff_ne]
          exact ⟨⟨⟨hlo, ha⟩, hb⟩, h.2⟩
      · simp only [Memory.wfFrom, Bool.and_eq_true, decide_eq_true_eq]
        exact ⟨h.1, ih h.2 (by omega)⟩

/-- "A write changes that byte and nothing else" (R53). -/
theorem Memory.read_write {m : Memory} (h : m.wf = true) (a : Nat) (b : Byte) (c : Nat) :
    (m.write a b).read c = if c = a ∧ a ≤ 4095 then b else m.read c := by
  unfold Memory.write
  split <;> rename_i ha
  · simp [Memory.read_insert h, ha]
  · simp [ha]

theorem Memory.wf_write {m : Memory} (h : m.wf = true) (a : Nat) (b : Byte) : (m.write a b).wf = true := by
  unfold Memory.write
  split <;> rename_i ha
  · exact Memory.wfFrom_insert h b (by omega) ha
  · exact h

theorem Memory.wf_writeBytes {m : Memory} (h : m.wf = true) (a : Nat) (bs : List Byte) :
    (m.writeBytes a bs).wf = true := by
  induction bs generalizing m a with
  | nil => exact h
  | cons b bs ih => exact ih (Memory.wf_write h a b) (a + 1)

/-- What bytes written at rising addresses read as, and that every other byte is as before. -/
theorem Memory.read_writeBytes {m : Memory} (h : m.wf = true) (a : Nat) (bs : List Byte) (c : Nat) :
    (m.writeBytes a bs).read c =
      if a ≤ c ∧ c < a + bs.length ∧ c ≤ 4095 then bs.getD (c - a) 0#8 else m.read c := by
  induction bs generalizing m a with
  | nil =>
    simp only [Memory.writeBytes, List.length_nil]
    rw [if_neg (by omega)]
  | cons b bs ih =>
    simp only [Memory.writeBytes, ih (Memory.wf_write h a b), Memory.read_write h, List.length_cons]
    by_cases hc : c = a
    · subst hc
      by_cases h4 : c ≤ 4095
      · simp [h4, show ¬(c + 1 ≤ c) by omega]
      · simp [h4]
    · by_cases hr : a + 1 ≤ c ∧ c < a + 1 + bs.length ∧ c ≤ 4095
      · rw [if_pos hr, if_pos (by omega), show c - a = (c - (a + 1)) + 1 by omega, List.getD_cons_succ]
      · rw [if_neg hr, if_neg (by omega), if_neg (by omega)]

theorem wf_loadPort {m : Memory} (h : m.wf = true) (ws : List (Addr12 × Byte)) : (loadPort m ws).wf = true := by
  unfold loadPort
  induction ws generalizing m with
  | nil => exact h
  | cons c ws ih => exact ih (Memory.wf_write h c.1.toNat c.2)

/-- Reset memory lists nothing and is canonical. -/
theorem reset_mem_wf : State.reset.mem.wf = true := by decide

theorem wf_bootMemory (font image : List Byte) : (bootMemory font image).wf = true :=
  Memory.wf_writeBytes (Memory.wf_writeBytes (by decide) _ _) _ _

end Sys2Proof.Machine
end

