-- ==== Sys2Proof/Laws/Ops.lean ====
section
/-! SUPPORT. For each shared operation, what it can do, said once: later proofs cite these and do not unfold it. -/

namespace Sys2Proof.Machine

/-! ### Range check, call stack, skip, key wait -/

/-- A range check either halts with MemoryBound, because the range is not empty and its last byte is out of bounds, or
goes on. -/
theorem State.checkRange_cases (s : State) (base count : Nat) (body : State → State) :
    (0 < count ∧ 4096 < base + count ∧ s.checkRange base count body = s.raise .memoryBound (boundInfo base)) ∨
      ((count = 0 ∨ base + count ≤ 4096) ∧ s.checkRange base count body = body s) := by
  unfold State.checkRange
  split <;> rename_i h
  · exact .inl ⟨h.1, by omega, rfl⟩
  · exact .inr ⟨by omega, rfl⟩

theorem State.checkRange_ok (s : State) {base count : Nat} (h : base + count ≤ 4096) (body : State → State) :
    s.checkRange base count body = body s := by
  unfold State.checkRange; rw [if_neg (by omega)]

/-- A push either halts with StackOverflow or puts the value on top and goes on. -/
theorem State.push_cases (s : State) (w v : Word) (rest : State → State) :
    (s.stackFull = true ∧ s.push w v rest = s.raise .stackOverflow (wordInfo w)) ∨
      (s.stackFull = false ∧ s.push w v rest = rest (s.setStack (v :: s.stack))) := by
  unfold State.push
  cases h : s.stackFull <;> simp

/-- A pop either halts with StackUnderflow or takes the top and goes on. -/
theorem State.pop_cases (s : State) (w : Word) (rest : Word → State → State) :
    (s.stack = [] ∧ s.pop w rest = s.raise .stackUnderflow (wordInfo w)) ∨
      (∃ v older, s.stack = v :: older ∧ s.pop w rest = rest v (s.setStack older)) := by
  unfold State.pop
  cases h : s.stack with
  | nil => exact .inl ⟨rfl, rfl⟩
  | cons v older => exact .inr ⟨v, older, rfl, rfl⟩

/-- The first address of a data access is the value of `I` (R156). -/
theorem State.base_eq (s : State) : s.base = s.index.toNat := rfl

/-- The origin of a sprite wraps (R162). -/
theorem State.originX_eq (s : State) (x : Nibble) : s.originX x = (s.reg x).toNat % 64 := rfl

/-- The origin of a sprite wraps (R162). -/
theorem State.originY_eq (s : State) (y : Nibble) : s.originY y = (s.reg y).toNat % 32 := rfl

/-- The rows of a sprite are clipped (R162). -/
theorem spriteRows_eq (n : Nibble) (y0 : Nat) : spriteRows n y0 = min n.toNat (32 - y0) := rfl

/-- `hinfo` of a 16-bit address that is out of range (R35). -/
theorem boundInfo_toNat {a : Nat} (h : a < 65536) : (boundInfo a).toNat = max a 4096 := by
  simp [boundInfo]
  omega

/-- The shifts read `V[x]` as it is, or after the copy of the quirk (R138, R140). -/
theorem State.shiftSource_cases (s : State) (x y : Nibble) :
    s.shiftSource x y = s ∨ s.shiftSource x y = s.setReg x (s.reg y) := by
  unfold State.shiftSource
  split <;> simp

/-- A skip is a change of `pc` alone. -/
theorem State.skipIf_eq (s : State) (c : Bool) : s.skipIf c = s.setPc (if c then s.pc + 2#16 else s.pc) := by
  cases c <;> rfl

/-- A key wait changes `pc` alone, or the destination register alone. -/
theorem State.waitKey_cases (s : State) (x : Nibble) :
    (s.lowestKey = none ∧ s.waitKey x = s.setPc (s.pc - 2#16)) ∨
      (∃ k, s.lowestKey = some k ∧ s.waitKey x = s.setReg x (BitVec.ofNat 8 k)) := by
  unfold State.waitKey
  cases h : s.lowestKey with
  | none => exact .inl ⟨rfl, rfl⟩
  | some k => exact .inr ⟨k, rfl, rfl⟩

/-- No key is lowest exactly when no key is held. -/
theorem State.lowestKey_none_iff (s : State) : s.lowestKey = none ↔ s.inp.keys = 0#16 := by
  unfold State.lowestKey
  rw [List.find?_eq_none]
  constructor
  · intro h
    apply BitVec.eq_of_getLsbD_eq
    intro i hi
    have := h i (List.mem_range.mpr hi)
    simpa using this
  · intro h k _
    simp [h]

/-- The lowest key is held and no lower one is. -/
theorem State.lowestKey_spec {s : State} {k : Nat} (h : s.lowestKey = some k) :
    k < 16 ∧ s.inp.keys.getLsbD k = true ∧ ∀ j, j < k → s.inp.keys.getLsbD j = false := by
  have hk := List.find?_range_eq_some.mp h
  exact ⟨List.mem_range.mp hk.2.1, hk.1, fun j hj => by simpa using hk.2.2 j hj⟩

/-! ### Loading registers -/

/-- Loading some registers changes the register file alone. -/
theorem loadRegs_fold_eq (f : Nat → Byte) (l : List Nat) (t : State) :
    ∃ w, l.foldl (fun t k => t.setReg (BitVec.ofNat 4 k) (f k)) t = { t with v := w } := by
  induction l generalizing t with
  | nil => exact ⟨t.v, rfl⟩
  | cons k l ih => obtain ⟨w, hw⟩ := ih (t.setReg (BitVec.ofNat 4 k) (f k)); exact ⟨w, hw⟩

theorem State.loadRegs_eq (s : State) (a : Nat) (x : Nibble) : ∃ w, s.loadRegs a x = { s with v := w } :=
  loadRegs_fold_eq (fun k => s.byteAt (a + k)) _ s

@[simp] theorem State.loadRegs_mem (s : State) (a : Nat) (x : Nibble) : (s.loadRegs a x).mem = s.mem := by
  obtain ⟨w, hw⟩ := s.loadRegs_eq a x; rw [hw]
@[simp] theorem State.loadRegs_index (s : State) (a : Nat) (x : Nibble) : (s.loadRegs a x).index = s.index := by
  obtain ⟨w, hw⟩ := s.loadRegs_eq a x; rw [hw]
@[simp] theorem State.loadRegs_pc (s : State) (a : Nat) (x : Nibble) : (s.loadRegs a x).pc = s.pc := by
  obtain ⟨w, hw⟩ := s.loadRegs_eq a x; rw [hw]
@[simp] theorem State.loadRegs_stack (s : State) (a : Nat) (x : Nibble) : (s.loadRegs a x).stack = s.stack := by
  obtain ⟨w, hw⟩ := s.loadRegs_eq a x; rw [hw]
@[simp] theorem State.loadRegs_fb (s : State) (a : Nat) (x : Nibble) : (s.loadRegs a x).fb = s.fb := by
  obtain ⟨w, hw⟩ := s.loadRegs_eq a x; rw [hw]
@[simp] theorem State.loadRegs_dt (s : State) (a : Nat) (x : Nibble) : (s.loadRegs a x).dt = s.dt := by
  obtain ⟨w, hw⟩ := s.loadRegs_eq a x; rw [hw]
@[simp] theorem State.loadRegs_st (s : State) (a : Nat) (x : Nibble) : (s.loadRegs a x).st = s.st := by
  obtain ⟨w, hw⟩ := s.loadRegs_eq a x; rw [hw]
@[simp] theorem State.loadRegs_halted (s : State) (a : Nat) (x : Nibble) : (s.loadRegs a x).halted = s.halted := by
  obtain ⟨w, hw⟩ := s.loadRegs_eq a x; rw [hw]
@[simp] theorem State.loadRegs_hcause (s : State) (a : Nat) (x : Nibble) : (s.loadRegs a x).hcause = s.hcause := by
  obtain ⟨w, hw⟩ := s.loadRegs_eq a x; rw [hw]
@[simp] theorem State.loadRegs_hinfo (s : State) (a : Nat) (x : Nibble) : (s.loadRegs a x).hinfo = s.hinfo := by
  obtain ⟨w, hw⟩ := s.loadRegs_eq a x; rw [hw]
@[simp] theorem State.loadRegs_config (s : State) (a : Nat) (x : Nibble) : (s.loadRegs a x).config = s.config := by
  obtain ⟨w, hw⟩ := s.loadRegs_eq a x; rw [hw]
@[simp] theorem State.loadRegs_inp (s : State) (a : Nat) (x : Nibble) : (s.loadRegs a x).inp = s.inp := by
  obtain ⟨w, hw⟩ := s.loadRegs_eq a x; rw [hw]
@[simp] theorem State.loadRegs_script (s : State) (a : Nat) (x : Nibble) : (s.loadRegs a x).script = s.script := by
  obtain ⟨w, hw⟩ := s.loadRegs_eq a x; rw [hw]
@[simp] theorem State.loadRegs_inputCount (s : State) (a : Nat) (x : Nibble) : (s.loadRegs a x).inputCount = s.inputCount := by
  obtain ⟨w, hw⟩ := s.loadRegs_eq a x; rw [hw]
@[simp] theorem State.loadRegs_frames (s : State) (a : Nat) (x : Nibble) : (s.loadRegs a x).frames = s.frames := by
  obtain ⟨w, hw⟩ := s.loadRegs_eq a x; rw [hw]
@[simp] theorem State.loadRegs_sounds (s : State) (a : Nat) (x : Nibble) : (s.loadRegs a x).sounds = s.sounds := by
  obtain ⟨w, hw⟩ := s.loadRegs_eq a x; rw [hw]
@[simp] theorem State.loadRegs_byteAt (s : State) (a : Nat) (x : Nibble) (c : Nat) :
    (s.loadRegs a x).byteAt c = s.byteAt c := by simp [State.byteAt]

theorem reg_loadRegs_fold (f : Nat → Byte) (n : Nat) (hn : n ≤ 16) (t : State) (r : Nibble) :
    ((List.range n).foldl (fun t k => t.setReg (BitVec.ofNat 4 k) (f k)) t).reg r =
      if r.toNat < n then f r.toNat else t.reg r := by
  induction n with
  | zero => simp
  | succ n ih =>
    rw [List.range_succ, List.foldl_append, List.foldl_cons, List.foldl_nil, State.reg_setReg, ih (by omega)]
    by_cases h : r = BitVec.ofNat 4 n
    · have hr : r.toNat = n := by rw [h, BitVec.toNat_ofNat]; omega
      rw [if_pos h, hr, if_pos (by omega)]
    · have hr : r.toNat ≠ n := fun e => h (by rw [← e, BitVec.ofNat_toNat, BitVec.setWidth_eq])
      rw [if_neg h]
      by_cases hl : r.toNat < n
      · rw [if_pos hl, if_pos (by omega)]
      · rw [if_neg hl, if_neg (by omega)]

/-- `V[0] .. V[x]` hold the loaded bytes, the other registers what they held. -/
@[simp] theorem State.reg_loadRegs (s : State) (a : Nat) (x r : Nibble) :
    (s.loadRegs a x).reg r = if r.toNat ≤ x.toNat then s.byteAt (a + r.toNat) else s.reg r := by
  have h := reg_loadRegs_fold (fun k => s.byteAt (a + k)) (x.toNat + 1) (by have := x.isLt; omega) s r
  simpa [State.loadRegs, Nat.lt_succ_iff] using h

/-! ### Storing bytes -/

@[simp] theorem State.regsUpTo_length (s : State) (x : Nibble) : (s.regsUpTo x).length = x.toNat + 1 := by
  simp [State.regsUpTo]

/-- The `k`-th stored byte is register `k`. -/
theorem State.regsUpTo_getD (s : State) (x : Nibble) {k : Nat} (h : k ≤ x.toNat) :
    (s.regsUpTo x).getD k 0#8 = s.reg (BitVec.ofNat 4 k) := by
  have hk : k < (s.regsUpTo x).length := by rw [State.regsUpTo_length]; omega
  rw [← List.getElem_eq_getD (h := hk)]
  simp [State.regsUpTo]

theorem State.byteAt_storeBytes {s : State} (h : s.mem.wf = true) (a : Nat) (bs : List Byte) (c : Nat) :
    (s.storeBytes a bs).byteAt c =
      if a ≤ c ∧ c < a + bs.length ∧ c ≤ 4095 then bs.getD (c - a) 0#8 else s.byteAt c := by
  simp [State.byteAt, Memory.read_writeBytes h]

/-! ### Ticks -/

theorem countDown_toNat (b : Byte) (k : Nat) : (countDown b k).toNat = b.toNat - k := by
  unfold countDown
  have := b.isLt
  split <;> rename_i h
  · simp [h]
  · rw [BitVec.toNat_ofNat]; omega

theorem liveTicks_eq (b : Byte) (k : Nat) : liveTicks b k = min k b.toNat := by
  unfold liveTicks
  split <;> rename_i h
  · simp [h]
  · rfl

/-! ### Outcomes -/

@[simp] theorem thenNext_next (s : State) (f : State → State) : thenNext (.next s) f = .next (f s) := rfl

theorem thenNext_eq_next {o : Host.Outcome State Fault Refusal} {f : State → State} {t : State}
    (h : thenNext o f = .next t) : ∃ s, o = .next s ∧ t = f s := by
  cases o with
  | next s => exact ⟨s, rfl, by simpa [thenNext, eq_comm] using h⟩
  | fault r => simp [thenNext] at h
  | refused r => simp [thenNext] at h

end Sys2Proof.Machine
end

