-- ==== Sys2Proof/Laws/Display.lean ====
section
/-! SUPPORT. The sprite engine, pixel by pixel: what a drawn sprite does to each pixel, and when it collides
(spec/44_display.md R161, R162). -/

namespace Sys2Proof.Machine

/-- A flip changes one pixel of the screen. -/
theorem pixel_flipPixel (f : Framebuffer) {x y px py : Nat} (hx : x < 64) (hpx : px < 64) (hpy : py < 32) :
    pixel (flipPixel f x y) px py = (pixel f px py ^^ decide (px = x ∧ py = y)) := by
  have h : (y * 64 + x = py * 64 + px) ↔ (px = x ∧ py = y) := by omega
  have hb : py * 64 + px < 2048 := by omega
  simp only [pixel, flipPixel, BitVec.getLsbD_xor, BitVec.getLsbD_twoPow]
  congr 1
  by_cases hq : px = x ∧ py = y
  · have e := h.mpr hq
    simp [hq.1, hq.2]; omega
  · have e : ¬ (y * 64 + x = py * 64 + px) := fun e => hq (h.mp e)
    simp only [hq, decide_false, e, Bool.and_false]

/-- The bit of one sprite row, its first `n` columns, that falls on column `px`. -/
def rowBit (x0 : Nat) (b : Byte) (n px : Nat) : Bool :=
  decide (x0 ≤ px ∧ px < x0 + n ∧ px ≤ 63) && b.getLsbD (7 - (px - x0))

theorem rowBit_succ (x0 : Nat) (b : Byte) (n px : Nat) :
    rowBit x0 b (n + 1) px = (rowBit x0 b n px || decide (px = x0 + n ∧ x0 + n ≤ 63 ∧ b.getLsbD (7 - n) = true)) := by
  unfold rowBit
  by_cases h : px = x0 + n
  · subst h
    by_cases hc : x0 + n ≤ 63 <;> simp [hc]
  · have e : (x0 ≤ px ∧ px < x0 + (n + 1) ∧ px ≤ 63) ↔ (x0 ≤ px ∧ px < x0 + n ∧ px ≤ 63) := by omega
    simp [h, e]

theorem rowBit_zero (x0 : Nat) (b : Byte) (px : Nat) : rowBit x0 b 0 px = false := by
  simp only [rowBit, Bool.and_eq_false_iff, decide_eq_false_iff_not]; omega

theorem rowBit_self (x0 : Nat) (b : Byte) (n : Nat) : rowBit x0 b n (x0 + n) = false := by simp [rowBit]

/-- What the first `n` columns of a row do. -/
theorem drawColumns_spec (x0 y : Nat) (b : Byte) (hy : y < 32) (n : Nat) (cv : Canvas) :
    (∀ px py, px < 64 → py < 32 →
      pixel ((List.range n).foldl (drawColumn x0 y b) cv).fb px py =
        (pixel cv.fb px py ^^ (decide (py = y) && rowBit x0 b n px))) ∧
    (((List.range n).foldl (drawColumn x0 y b) cv).hit = true ↔
      cv.hit = true ∨ ∃ px, px < 64 ∧ rowBit x0 b n px = true ∧ pixel cv.fb px y = true) := by
  induction n with
  | zero => simp [rowBit_zero]
  | succ n ih =>
    rw [List.range_succ, List.foldl_append, List.foldl_cons, List.foldl_nil]
    obtain ⟨ihp, ihh⟩ := ih
    generalize hcv : (List.range n).foldl (drawColumn x0 y b) cv = t at *
    unfold drawColumn
    split <;> rename_i hc
    · constructor
      · intro px py hpx hpy
        rw [pixel_flipPixel _ (by omega) hpx hpy, ihp px py hpx hpy, rowBit_succ, Bool.xor_assoc]
        congr 1
        by_cases hq : px = x0 + n
        · subst hq
          simp [rowBit_self, hc.1, hc.2]
        · simp [hq]
      · have hold : pixel t.fb (x0 + n) y = pixel cv.fb (x0 + n) y := by
          rw [ihp _ _ (by omega) hy, rowBit_self]; simp
        rw [Bool.or_eq_true, ihh, hold]
        constructor
        · rintro ((h | ⟨px, h1, h2, h3⟩) | h)
          · exact .inl h
          · exact .inr ⟨px, h1, by rw [rowBit_succ, h2]; rfl, h3⟩
          · exact .inr ⟨x0 + n, by omega, by rw [rowBit_succ]; simp [hc.1, hc.2], h⟩
        · rintro (h | ⟨px, h1, h2, h3⟩)
          · exact .inl (.inl h)
          · rw [rowBit_succ, Bool.or_eq_true, decide_eq_true_eq] at h2
            rcases h2 with h2 | h2
            · exact .inl (.inr ⟨px, h1, h2, h3⟩)
            · exact .inr (h2.1 ▸ h3)
    · have e : ∀ px, rowBit x0 b (n + 1) px = rowBit x0 b n px := by
        intro px
        rw [rowBit_succ]
        have : ¬ (px = x0 + n ∧ x0 + n ≤ 63 ∧ b.getLsbD (7 - n) = true) := fun h => hc h.2
        simp [this]
      simp only [e]
      exact ⟨ihp, ihh⟩

/-- A sprite up to its first `n` rows: the pixels it flips. -/
theorem spriteBit_succ (m : Memory) (a x0 y0 n px py : Nat) :
    spriteBit m a x0 y0 (n + 1) px py =
      (spriteBit m a x0 y0 n px py || (decide (py = y0 + n) && rowBit x0 (m.read (a + n)) 8 px)) := by
  unfold spriteBit rowBit
  by_cases h : py = y0 + n
  · subst h; simp
  · have e : (x0 ≤ px ∧ px < x0 + 8 ∧ px ≤ 63 ∧ y0 ≤ py ∧ py < y0 + (n + 1)) ↔
        (x0 ≤ px ∧ px < x0 + 8 ∧ px ≤ 63 ∧ y0 ≤ py ∧ py < y0 + n) := by omega
    simp [h, e]

theorem spriteBit_zero (m : Memory) (a x0 y0 px py : Nat) : spriteBit m a x0 y0 0 px py = false := by
  simp only [spriteBit, Bool.and_eq_false_iff, decide_eq_false_iff_not]; omega

theorem spriteBit_self (m : Memory) (a x0 y0 n px : Nat) : spriteBit m a x0 y0 n px (y0 + n) = false := by
  simp [spriteBit]

/-- What a drawn sprite does: it flips the pixels its bits fall on, and collides when one of them was set. -/
theorem drawSprite_spec (m : Memory) (a x0 y0 rows : Nat) (hy : y0 + rows ≤ 32) (cv : Canvas) :
    (∀ px py, px < 64 → py < 32 →
      pixel (drawSprite m a x0 y0 rows cv).fb px py = (pixel cv.fb px py ^^ spriteBit m a x0 y0 rows px py)) ∧
    ((drawSprite m a x0 y0 rows cv).hit = true ↔
      cv.hit = true ∨ ∃ px py, px < 64 ∧ py < 32 ∧ spriteBit m a x0 y0 rows px py = true ∧
        pixel cv.fb px py = true) := by
  induction rows with
  | zero => simp [drawSprite, spriteBit_zero]
  | succ n ih =>
    obtain ⟨ihp, ihh⟩ := ih (by omega)
    have estep : drawSprite m a x0 y0 (n + 1) cv =
        drawRow x0 (y0 + n) (m.read (a + n)) (drawSprite m a x0 y0 n cv) := by
      simp [drawSprite, List.range_succ]
    rw [estep]
    generalize drawSprite m a x0 y0 n cv = t at *
    obtain ⟨rp, rh⟩ := drawColumns_spec x0 (y0 + n) (m.read (a + n)) (by omega) 8 t
    constructor
    · intro px py hpx hpy
      rw [drawRow, rp px py hpx hpy, ihp px py hpx hpy, spriteBit_succ, Bool.xor_assoc]
      congr 1
      by_cases h : py = y0 + n
      · subst h; simp [spriteBit_self]
      · simp [h]
    · have hold : ∀ px, px < 64 → pixel t.fb px (y0 + n) = pixel cv.fb px (y0 + n) := by
        intro px hpx
        rw [ihp _ _ hpx (by omega), spriteBit_self]; simp
      rw [drawRow, rh, ihh]
      constructor
      · rintro ((h | ⟨px, py, h1, h2, h3, h4⟩) | ⟨px, h1, h2, h3⟩)
        · exact .inl h
        · exact .inr ⟨px, py, h1, h2, by rw [spriteBit_succ, h3]; rfl, h4⟩
        · exact .inr ⟨px, y0 + n, h1, by omega, by rw [spriteBit_succ, h2]; simp, (hold px h1) ▸ h3⟩
      · rintro (h | ⟨px, py, h1, h2, h3, h4⟩)
        · exact .inl (.inl h)
        · rw [spriteBit_succ, Bool.or_eq_true, Bool.and_eq_true, decide_eq_true_eq] at h3
          rcases h3 with h3 | ⟨h3, h5⟩
          · exact .inl (.inr ⟨px, py, h1, h2, h3, h4⟩)
          · subst h3; exact .inr ⟨px, h1, h5, (hold px h1).symm ▸ h4⟩

/-- The rows a sprite draws stay on the screen. -/
theorem spriteRows_le (n : Nibble) {y0 : Nat} (h : y0 < 32) : y0 + spriteRows n y0 ≤ 32 := by
  unfold spriteRows; omega

end Sys2Proof.Machine
end

