-- ==== Sys2Proof/Laws/Frames.lean ====
section
/-! SUPPORT. The frame of each shared operation: the one part of the state it can change. Frames compose. -/

namespace Sys2Proof.Machine

theorem Keeps.refl (s : State) (p : Part) : Keeps s s p := by cases p <;> simp [Keeps]

theorem Keeps.trans {s t u : State} {p : Part} (h : Keeps s t p) (k : Keeps t u p) : Keeps s u p := by
  cases p <;> simp_all [Keeps]

theorem ChangesOnly.refl (parts : List Part) (s : State) : ChangesOnly parts s s :=
  ⟨⟨rfl, rfl, rfl, rfl, rfl, rfl⟩, fun p _ => Keeps.refl s p⟩

theorem ChangesOnly.trans {parts : List Part} {s t u : State} (h : ChangesOnly parts s t)
    (k : ChangesOnly parts t u) : ChangesOnly parts s u := by
  obtain ⟨⟨h1, h2, h3, h4, h5, h6⟩, hk⟩ := h
  obtain ⟨⟨k1, k2, k3, k4, k5, k6⟩, kk⟩ := k
  exact ⟨⟨k1.trans h1, k2.trans h2, k3.trans h3, k4.trans h4, k5.trans h5, k6.trans h6⟩,
    fun p hp => (hk p hp).trans (kk p hp)⟩

theorem ChangesOnly.mono {parts more : List Part} {s t : State} (h : ChangesOnly parts s t) (hs : parts ⊆ more) :
    ChangesOnly more s t :=
  ⟨h.1, fun p hp => h.2 p (fun hq => hp (hs hq))⟩

theorem State.setReg_frame (s : State) (r : Nibble) (b : Byte) : ChangesOnly [.regs] s (s.setReg r b) :=
  ⟨by simp [SameSurroundings], fun p hp => by cases p <;> simp_all [Keeps]⟩

theorem State.setFlag_frame (s : State) (b : Bool) : ChangesOnly [.regs] s (s.setFlag b) :=
  ⟨by simp [SameSurroundings], fun p hp => by cases p <;> simp_all [Keeps]⟩

theorem State.setIndex_frame (s : State) (w : Word) : ChangesOnly [.index] s (s.setIndex w) :=
  ⟨by simp [SameSurroundings], fun p hp => by cases p <;> simp_all [Keeps]⟩

theorem State.setPc_frame (s : State) (w : Word) : ChangesOnly [.pc] s (s.setPc w) :=
  ⟨by simp [SameSurroundings], fun p hp => by cases p <;> simp_all [Keeps]⟩

theorem State.advance_frame (s : State) : ChangesOnly [.pc] s (s.advance) :=
  ⟨by simp [SameSurroundings], fun p hp => by cases p <;> simp_all [Keeps]⟩

theorem State.setDt_frame (s : State) (b : Byte) : ChangesOnly [.dt] s (s.setDt b) :=
  ⟨by simp [SameSurroundings], fun p hp => by cases p <;> simp_all [Keeps]⟩

theorem State.setSt_frame (s : State) (b : Byte) : ChangesOnly [.st] s (s.setSt b) :=
  ⟨by simp [SameSurroundings], fun p hp => by cases p <;> simp_all [Keeps]⟩

theorem State.setFb_frame (s : State) (f : Framebuffer) : ChangesOnly [.fb] s (s.setFb f) :=
  ⟨by simp [SameSurroundings], fun p hp => by cases p <;> simp_all [Keeps]⟩

theorem State.setMem_frame (s : State) (m : Memory) : ChangesOnly [.mem] s (s.setMem m) :=
  ⟨by simp [SameSurroundings], fun p hp => by cases p <;> simp_all [Keeps]⟩

theorem State.storeBytes_frame (s : State) (a : Nat) (bs : List Byte) : ChangesOnly [.mem] s (s.storeBytes a bs) :=
  ⟨by simp [SameSurroundings], fun p hp => by cases p <;> simp_all [Keeps]⟩

theorem State.setStack_frame (s : State) (l : List Word) : ChangesOnly [.stack] s (s.setStack l) :=
  ⟨by simp [SameSurroundings], fun p hp => by cases p <;> simp_all [Keeps]⟩

theorem State.raise_frame (s : State) (c : HaltCause) (i : HaltInfo) : ChangesOnly [.latch] s (s.raise c i) :=
  ⟨by simp [SameSurroundings], fun p hp => by cases p <;> simp_all [Keeps]⟩

theorem State.loadRegs_frame (s : State) (a : Nat) (x : Nibble) : ChangesOnly [.regs] s (s.loadRegs a x) :=
  ⟨by simp [SameSurroundings], fun p hp => by cases p <;> simp_all [Keeps]⟩

end Sys2Proof.Machine
end

