-- ==== Sys2Proof/Laws/PerInstr.lean ====
section
/-! SUPPORT. The family TableRow: the word of an instruction has the fixed bits of its row of the opcode table
(spec/30_encoding.md R80: `w & mask = match`). -/

namespace Sys2Proof

open BitVec

/-- Masking with F000 leaves `op`. -/
theorem and_F000 (w : Word) : w &&& 0xF000#16 = wordNNN (opField w) 0#12 := by
  apply eq_of_getLsbD_eq
  intro i hi
  have e : (wordNNN (opField w) 0#12).getLsbD i =
      if i < 12 then (0#12).getLsbD i else (opField w).getLsbD (i - 12) := getLsbD_append
  rw [e]
  interval_cases i <;> simp [opField]

/-- Masking with F00F leaves `op` and `n`. -/
theorem and_F00F (w : Word) : w &&& 0xF00F#16 = wordXYN (opField w) 0#4 0#4 (nField w) := by
  apply eq_of_getLsbD_eq
  intro i hi
  have e : (wordXYN (opField w) 0#4 0#4 (nField w)).getLsbD i =
      if i < 4 then (nField w).getLsbD i else (opField w ++ 0#4 ++ 0#4).getLsbD (i - 4) := getLsbD_append
  rw [e, getLsbD_append, getLsbD_append]
  interval_cases i <;> simp [opField, nField]

/-- Masking with F0FF leaves `op` and `nn`. -/
theorem and_F0FF (w : Word) : w &&& 0xF0FF#16 = wordXNN (opField w) 0#4 (nnField w) := by
  apply eq_of_getLsbD_eq
  intro i hi
  have e : (wordXNN (opField w) 0#4 (nnField w)).getLsbD i =
      if i < 8 then (nnField w).getLsbD i else (opField w ++ 0#4).getLsbD (i - 8) := getLsbD_append
  rw [e, getLsbD_append]
  interval_cases i <;> simp [opField, nnField]

/-- The word of the instruction matches its row: `encode i & mask = match` (R80). -/
def Laws.TableRow.Statement (i : Instr) : Prop := encode i &&& (tableRow i).1 = (tableRow i).2

theorem Laws.TableRow.cls : Laws.TableRow.Statement .cls := by unfold Laws.TableRow.Statement; decide

theorem Laws.TableRow.ret : Laws.TableRow.Statement .ret := by unfold Laws.TableRow.Statement; decide

theorem Laws.TableRow.jp (nnn : Addr12) : Laws.TableRow.Statement (.jp nnn) := by
  simp only [Laws.TableRow.Statement, encode, tableRow, and_F000]; simp; decide

theorem Laws.TableRow.call (nnn : Addr12) : Laws.TableRow.Statement (.call nnn) := by
  simp only [Laws.TableRow.Statement, encode, tableRow, and_F000]; simp; decide

theorem Laws.TableRow.seImm (x : Nibble) (nn : Byte) : Laws.TableRow.Statement (.seImm x nn) := by
  simp only [Laws.TableRow.Statement, encode, tableRow, and_F000]; simp; decide

theorem Laws.TableRow.sneImm (x : Nibble) (nn : Byte) : Laws.TableRow.Statement (.sneImm x nn) := by
  simp only [Laws.TableRow.Statement, encode, tableRow, and_F000]; simp; decide

theorem Laws.TableRow.seReg (x : Nibble) (y : Nibble) : Laws.TableRow.Statement (.seReg x y) := by
  simp only [Laws.TableRow.Statement, encode, tableRow, and_F00F]; simp; decide

theorem Laws.TableRow.ldImm (x : Nibble) (nn : Byte) : Laws.TableRow.Statement (.ldImm x nn) := by
  simp only [Laws.TableRow.Statement, encode, tableRow, and_F000]; simp; decide

theorem Laws.TableRow.addImm (x : Nibble) (nn : Byte) : Laws.TableRow.Statement (.addImm x nn) := by
  simp only [Laws.TableRow.Statement, encode, tableRow, and_F000]; simp; decide

theorem Laws.TableRow.ldReg (x : Nibble) (y : Nibble) : Laws.TableRow.Statement (.ldReg x y) := by
  simp only [Laws.TableRow.Statement, encode, tableRow, and_F00F]; simp; decide

theorem Laws.TableRow.orReg (x : Nibble) (y : Nibble) : Laws.TableRow.Statement (.orReg x y) := by
  simp only [Laws.TableRow.Statement, encode, tableRow, and_F00F]; simp; decide

theorem Laws.TableRow.andReg (x : Nibble) (y : Nibble) : Laws.TableRow.Statement (.andReg x y) := by
  simp only [Laws.TableRow.Statement, encode, tableRow, and_F00F]; simp; decide

theorem Laws.TableRow.xorReg (x : Nibble) (y : Nibble) : Laws.TableRow.Statement (.xorReg x y) := by
  simp only [Laws.TableRow.Statement, encode, tableRow, and_F00F]; simp; decide

theorem Laws.TableRow.addReg (x : Nibble) (y : Nibble) : Laws.TableRow.Statement (.addReg x y) := by
  simp only [Laws.TableRow.Statement, encode, tableRow, and_F00F]; simp; decide

theorem Laws.TableRow.sub (x : Nibble) (y : Nibble) : Laws.TableRow.Statement (.sub x y) := by
  simp only [Laws.TableRow.Statement, encode, tableRow, and_F00F]; simp; decide

theorem Laws.TableRow.shr (x : Nibble) (y : Nibble) : Laws.TableRow.Statement (.shr x y) := by
  simp only [Laws.TableRow.Statement, encode, tableRow, and_F00F]; simp; decide

theorem Laws.TableRow.subn (x : Nibble) (y : Nibble) : Laws.TableRow.Statement (.subn x y) := by
  simp only [Laws.TableRow.Statement, encode, tableRow, and_F00F]; simp; decide

theorem Laws.TableRow.shl (x : Nibble) (y : Nibble) : Laws.TableRow.Statement (.shl x y) := by
  simp only [Laws.TableRow.Statement, encode, tableRow, and_F00F]; simp; decide

theorem Laws.TableRow.sneReg (x : Nibble) (y : Nibble) : Laws.TableRow.Statement (.sneReg x y) := by
  simp only [Laws.TableRow.Statement, encode, tableRow, and_F00F]; simp; decide

theorem Laws.TableRow.ldI (nnn : Addr12) : Laws.TableRow.Statement (.ldI nnn) := by
  simp only [Laws.TableRow.Statement, encode, tableRow, and_F000]; simp; decide

theorem Laws.TableRow.jpV0 (nnn : Addr12) : Laws.TableRow.Statement (.jpV0 nnn) := by
  simp only [Laws.TableRow.Statement, encode, tableRow, and_F000]; simp; decide

theorem Laws.TableRow.rnd (x : Nibble) (nn : Byte) : Laws.TableRow.Statement (.rnd x nn) := by
  simp only [Laws.TableRow.Statement, encode, tableRow, and_F000]; simp; decide

theorem Laws.TableRow.drw (x : Nibble) (y : Nibble) (n : Nibble) : Laws.TableRow.Statement (.drw x y n) := by
  simp only [Laws.TableRow.Statement, encode, tableRow, and_F000]; simp; decide

theorem Laws.TableRow.skp (x : Nibble) : Laws.TableRow.Statement (.skp x) := by
  simp only [Laws.TableRow.Statement, encode, tableRow, and_F0FF]; simp; decide

theorem Laws.TableRow.sknp (x : Nibble) : Laws.TableRow.Statement (.sknp x) := by
  simp only [Laws.TableRow.Statement, encode, tableRow, and_F0FF]; simp; decide

theorem Laws.TableRow.ldVxDt (x : Nibble) : Laws.TableRow.Statement (.ldVxDt x) := by
  simp only [Laws.TableRow.Statement, encode, tableRow, and_F0FF]; simp; decide

theorem Laws.TableRow.ldK (x : Nibble) : Laws.TableRow.Statement (.ldK x) := by
  simp only [Laws.TableRow.Statement, encode, tableRow, and_F0FF]; simp; decide

theorem Laws.TableRow.ldDtVx (x : Nibble) : Laws.TableRow.Statement (.ldDtVx x) := by
  simp only [Laws.TableRow.Statement, encode, tableRow, and_F0FF]; simp; decide

theorem Laws.TableRow.ldStVx (x : Nibble) : Laws.TableRow.Statement (.ldStVx x) := by
  simp only [Laws.TableRow.Statement, encode, tableRow, and_F0FF]; simp; decide

theorem Laws.TableRow.addI (x : Nibble) : Laws.TableRow.Statement (.addI x) := by
  simp only [Laws.TableRow.Statement, encode, tableRow, and_F0FF]; simp; decide

theorem Laws.TableRow.ldF (x : Nibble) : Laws.TableRow.Statement (.ldF x) := by
  simp only [Laws.TableRow.Statement, encode, tableRow, and_F0FF]; simp; decide

theorem Laws.TableRow.ldB (x : Nibble) : Laws.TableRow.Statement (.ldB x) := by
  simp only [Laws.TableRow.Statement, encode, tableRow, and_F0FF]; simp; decide

theorem Laws.TableRow.stRegs (x : Nibble) : Laws.TableRow.Statement (.stRegs x) := by
  simp only [Laws.TableRow.Statement, encode, tableRow, and_F0FF]; simp; decide

theorem Laws.TableRow.ldRegs (x : Nibble) : Laws.TableRow.Statement (.ldRegs x) := by
  simp only [Laws.TableRow.Statement, encode, tableRow, and_F0FF]; simp; decide

end Sys2Proof
end

