-- ==== Sys2Proof/Tests/Slice0.lean ====
section
/-! SUPPORT. Tests: the words of the specification decode as it says, its vectors (spec/95_test_vectors.md, named by
their ids) come out of one step, and every statement's hypotheses are met by a named state. -/

namespace Sys2Proof.Tests

open Sys2Proof Sys2Proof.Machine

/-! ### Helpers -/

/-- The start of a vector: the machine at reset with VF = 0x77, to show whether VF is written. -/
def start : State := State.reset.setReg 0xF#4 0x77#8

/-- The next state of one step on the word `w` satisfies `p`. -/
def runs (s : State) (w : Nat) (p : State → Bool) : Bool :=
  match step (s.withFetchWord 16 w) with
  | .next t => p t
  | .fault _ => false
  | .refused _ => false

/-- A state in which the next instruction finds the key lines at `k`. -/
def withKeys (s : State) (k : Word) : State := { s with inp := { s.inp with keys := k } }

/-- A state to which a random byte is presented. -/
def withRnd (s : State) (b : Byte) : State := { s with inp := { s.inp with rnd := b } }

/-- A state in which ticks arrived. -/
def withTicks (s : State) (k m : Nat) : State := { s with inp := { s.inp with dtTicks := k, stTicks := m } }

/-- A full stack at the default depth. -/
def fullStack : List Word := List.replicate 16 0x0206#16

/-- Halted with a cause, the information and `pc` of the vector. -/
def haltedAs (c : HaltCause) (info : HaltInfo) (pc : Word) (t : State) : Bool :=
  t.halted && t.hcause == c && t.hinfo == info && t.pc == pc

/-! ### WellFormed -/

/-- An image of 3585 bytes does not fit, one of 3584 does (70 R214). -/
theorem test_image_size :
    imageFits (List.replicate 3584 0#8) = true ∧ imageFits (List.replicate 3585 0#8) = false := by
  unfold imageFits
  rw [List.length_replicate, List.length_replicate]
  decide

/-- A font of 79 bytes is refused, the default one is whole (20 R59). -/
theorem test_font_size : fontWhole (List.replicate 79 0#8) = false ∧ fontWhole defaultFont = true := by decide

/-! ### Decoding, from words written out bit by bit (30, sections 2 to 4; 95, section 2.1) -/

/-- `RET`, `JP`, `CALL`, the skips, `JP_V0`. -/
theorem test_decode_control :
    decode 0b0000000011101110#16 = .instr .ret ∧
    decode 0b0001000011100000#16 = .instr (.jp 0x0E0#12) ∧
    decode 0b0010101010111100#16 = .instr (.call 0xABC#12) ∧
    decode 0b0011101001010101#16 = .instr (.seImm 0xA#4 0x55#8) ∧
    decode 0b0100111100000000#16 = .instr (.sneImm 0xF#4 0x00#8) ∧
    decode 0b0101101010110000#16 = .instr (.seReg 0xA#4 0xB#4) ∧
    decode 0b1001101010110000#16 = .instr (.sneReg 0xA#4 0xB#4) ∧
    decode 0b1011000100100011#16 = .instr (.jpV0 0x123#12) := by decide

/-- The loads, family 8, `RND`. -/
theorem test_decode_alu :
    decode 0b0110111100010010#16 = .instr (.ldImm 0xF#4 0x12#8) ∧
    decode 0b0111000000000011#16 = .instr (.addImm 0x0#4 0x03#8) ∧
    decode 0b1000101010110000#16 = .instr (.ldReg 0xA#4 0xB#4) ∧
    decode 0b1000101010110001#16 = .instr (.orReg 0xA#4 0xB#4) ∧
    decode 0b1000101010110010#16 = .instr (.andReg 0xA#4 0xB#4) ∧
    decode 0b1000101010110011#16 = .instr (.xorReg 0xA#4 0xB#4) ∧
    decode 0b1000101010110100#16 = .instr (.addReg 0xA#4 0xB#4) ∧
    decode 0b1000101010110101#16 = .instr (.sub 0xA#4 0xB#4) ∧
    decode 0b1000101010110110#16 = .instr (.shr 0xA#4 0xB#4) ∧
    decode 0b1000101010110111#16 = .instr (.subn 0xA#4 0xB#4) ∧
    decode 0b1000101010111110#16 = .instr (.shl 0xA#4 0xB#4) ∧
    decode 0b1100000111111111#16 = .instr (.rnd 0x1#4 0xFF#8) := by decide

/-- The index register and memory. -/
theorem test_decode_memory :
    decode 0b1010000100100011#16 = .instr (.ldI 0x123#12) ∧
    decode 0b1111000100011110#16 = .instr (.addI 0x1#4) ∧
    decode 0b1111000100101001#16 = .instr (.ldF 0x1#4) ∧
    decode 0b1111000100110011#16 = .instr (.ldB 0x1#4) ∧
    decode 0b1111000101010101#16 = .instr (.stRegs 0x1#4) ∧
    decode 0b1111000101100101#16 = .instr (.ldRegs 0x1#4) := by decide

/-- The framebuffer. -/
theorem test_decode_display :
    decode 0b0000000011100000#16 = .instr .cls ∧
    decode 0b1101000100100101#16 = .instr (.drw 0x1#4 0x2#4 0x5#4) := by decide

/-- Timers and keys. -/
theorem test_decode_timers_keys :
    decode 0b1111000100000111#16 = .instr (.ldVxDt 0x1#4) ∧
    decode 0b1111000100010101#16 = .instr (.ldDtVx 0x1#4) ∧
    decode 0b1111000100011000#16 = .instr (.ldStVx 0x1#4) ∧
    decode 0b1110000110011110#16 = .instr (.skp 0x1#4) ∧
    decode 0b1110000110100001#16 = .instr (.sknp 0x1#4) ∧
    decode 0b1111000100001010#16 = .instr (.ldK 0x1#4) := by decide

/-- Words the specification lists as `Unrecognized`. -/
theorem test_decode_unrecognized :
    [0x0000#16, 0x00E1#16, 0x00FE#16, 0x0123#16, 0x5AB1#16, 0x8AB8#16, 0x8AB9#16, 0x8ABA#16, 0x8ABB#16,
      0x8ABC#16, 0x8ABD#16, 0x8ABF#16, 0x9ABF#16, 0xE19F#16, 0xE100#16, 0xE1A0#16, 0xF100#16, 0xF11F#16,
      0xF130#16, 0xF175#16, 0xF185#16, 0xF1FF#16, 0xFFFF#16].all
      (fun w => decode w == .unrecognized w) = true := by decide

/-- High byte first, and the rest of the bytes is left (30 R70). -/
theorem test_decode_bytes : decodeBytes [0x12#8, 0x34#8, 0x56#8] = .ok (.jp 0x234#12, [0x56#8]) := by decide

/-- The numbering of opcode_table.json. -/
theorem test_decode_table_word :
    decodeTableWord 16 0x8AB7 = some (.subn 0xA#4 0xB#4) ∧ decodeTableWord 16 0x5AB1 = none := by decide

/-! ### One step: control transfer (95, section 2.2) -/

/-- cf1. -/
theorem test_jp :
    runs start 0x1234 (fun t => t.pc == 0x0234#16) = true := by decide

/-- cf2. -/
theorem test_jp_self :
    runs start 0x1200 (fun t => t.pc == 0x0200#16 && !t.halted) = true := by decide

/-- cf5. -/
theorem test_call :
    runs (start.setPc 0x204#16) 0x2300 (fun t => t.stack == [0x0206#16] && t.pc == 0x0300#16) = true := by decide

/-- cf8. -/
theorem test_call_full :
    runs (start.setStack fullStack) 0x2300
      (fun t => haltedAs .stackOverflow 0x2300#17 0x202#16 t && t.stack == fullStack) = true := by decide

/-- cf6. -/
theorem test_ret :
    runs ((start.setPc 0x300#16).setStack [0x0206#16]) 0x00EE
      (fun t => t.pc == 0x0206#16 && t.stack == []) = true := by decide

/-- cf7. -/
theorem test_ret_empty :
    runs start 0x00EE (fun t => haltedAs .stackUnderflow 0x00EE#17 0x202#16 t && t.stack == []) = true := by decide

/-- cf9. -/
theorem test_se_imm_taken :
    runs (start.setReg 0xA#4 0x55#8) 0x3A55 (fun t => t.pc == 0x0204#16) = true := by decide

/-- cf10. -/
theorem test_se_imm_not_taken :
    runs (start.setReg 0xA#4 0x54#8) 0x3A55 (fun t => t.pc == 0x0202#16) = true := by decide

/-- cf11. -/
theorem test_sne_imm_not_taken :
    runs (start.setReg 0xA#4 0x55#8) 0x4A55 (fun t => t.pc == 0x0202#16) = true := by decide

/-- cf12. -/
theorem test_sne_imm_taken :
    runs start 0x4A55 (fun t => t.pc == 0x0204#16) = true := by decide

/-- cf14. -/
theorem test_se_reg_not_taken :
    runs ((start.setReg 0x1#4 0x07#8).setReg 0x2#4 0x08#8) 0x5120 (fun t => t.pc == 0x0202#16) = true := by decide

/-- cf15. -/
theorem test_se_reg_same :
    runs start 0x5110 (fun t => t.pc == 0x0204#16) = true := by decide

/-- cf16. -/
theorem test_sne_reg_taken :
    runs ((start.setReg 0x1#4 0x07#8).setReg 0x2#4 0x08#8) 0x9120 (fun t => t.pc == 0x0204#16) = true := by decide

/-- cf17. -/
theorem test_sne_reg_same :
    runs start 0x9110 (fun t => t.pc == 0x0202#16) = true := by decide

/-- 41 R117: word 0xB300 with V0 = 0x10. -/
theorem test_jp_v0 :
    runs (start.setReg 0x0#4 0x10#8) 0xB300 (fun t => t.pc == 0x0310#16) = true := by decide

/-- 41 R117: word 0xBFFF with V0 = 0xFF. -/
theorem test_jp_v0_no_wrap :
    runs (start.setReg 0x0#4 0xFF#8) 0xBFFF (fun t => t.pc == 0x10FE#16 && !t.halted) = true := by decide

/-- cf21. -/
theorem test_unrecognized :
    runs start 0xFFFF (fun t => haltedAs .decodeGap 0xFFFF#17 0x202#16 t) = true := by decide

/-- cf24. -/
theorem test_odd_pc :
    runs (start.setPc 0x201#16) 0x612A (fun t => t.reg 0x1#4 == 0x2A#8 && t.pc == 0x0203#16) = true := by decide

/-- cf3, second step: the fetch at 0xFFF halts and `pc` stays. -/
theorem test_fetch_bound :
    (match step (start.setPc 0x0FFF#16) with
      | .next t => haltedAs .memoryBound 0x1000#17 0x0FFF#16 t
      | _ => false) = true := by decide

/-- cf25: a halted Executor has no step. -/
theorem test_halted :
    (match step (start.raise .decodeGap 0xFFFF#17) with
      | .next t => haltedAs .decodeGap 0xFFFF#17 0x200#16 t && t.frames == 0
      | _ => false) = true := by decide

/-! ### One step: loads, arithmetic, logic, shifts, random (95, section 2.3) -/

/-- alu1. -/
theorem test_ld_imm :
    runs start 0x6005
      (fun t => t.reg 0x0#4 == 0x05#8 && t.reg 0xF#4 == 0x77#8 && t.pc == 0x0202#16) = true := by decide

/-- alu2. -/
theorem test_add_imm :
    runs (start.setReg 0x0#4 0x05#8) 0x7003
      (fun t => t.reg 0x0#4 == 0x08#8 && t.reg 0xF#4 == 0x77#8) = true := by decide

/-- alu3. -/
theorem test_add_imm_wraps :
    runs (start.setReg 0x0#4 0xFF#8) 0x7001
      (fun t => t.reg 0x0#4 == 0x00#8 && t.reg 0xF#4 == 0x77#8) = true := by decide

/-- alu6. -/
theorem test_ld_reg :
    runs (start.setReg 0x2#4 0x7B#8) 0x8120
      (fun t => t.reg 0x1#4 == 0x7B#8 && t.reg 0xF#4 == 0x77#8) = true := by decide

/-- alu7. -/
theorem test_or :
    runs ((start.setReg 0x1#4 0x0F#8).setReg 0x2#4 0xF0#8) 0x8121
      (fun t => t.reg 0x1#4 == 0xFF#8 && t.reg 0xF#4 == 0x77#8) = true := by decide

/-- alu8. -/
theorem test_and :
    runs ((start.setReg 0x1#4 0x3C#8).setReg 0x2#4 0x0F#8) 0x8122
      (fun t => t.reg 0x1#4 == 0x0C#8 && t.reg 0xF#4 == 0x77#8) = true := by decide

/-- alu9. -/
theorem test_xor :
    runs ((start.setReg 0x1#4 0xFF#8).setReg 0x2#4 0x0F#8) 0x8123
      (fun t => t.reg 0x1#4 == 0xF0#8 && t.reg 0xF#4 == 0x77#8) = true := by decide

/-- alu10. -/
theorem test_xor_self :
    runs (start.setReg 0x1#4 0x5A#8) 0x8113 (fun t => t.reg 0x1#4 == 0x00#8) = true := by decide

/-- alu14. -/
theorem test_add_reg_carry :
    runs ((start.setReg 0x1#4 0xC8#8).setReg 0x2#4 0x64#8) 0x8124
      (fun t => t.reg 0x1#4 == 0x2C#8 && t.reg 0xF#4 == 0x01#8) = true := by decide

/-- alu18. -/
theorem test_add_reg_vf :
    runs ((start.setReg 0xF#4 0xC8#8).setReg 0x2#4 0x64#8) 0x8F24 (fun t => t.reg 0xF#4 == 0x01#8) = true := by decide

/-- alu21. -/
theorem test_sub_borrow :
    runs ((start.setReg 0x1#4 0x05#8).setReg 0x2#4 0x07#8) 0x8125
      (fun t => t.reg 0x1#4 == 0xFE#8 && t.reg 0xF#4 == 0x00#8) = true := by decide

/-- alu23. -/
theorem test_sub_equal :
    runs ((start.setReg 0x1#4 0x05#8).setReg 0x2#4 0x05#8) 0x8125
      (fun t => t.reg 0x1#4 == 0x00#8 && t.reg 0xF#4 == 0x01#8) = true := by decide

/-- alu28. -/
theorem test_subn :
    runs ((start.setReg 0x1#4 0x05#8).setReg 0x2#4 0x07#8) 0x8127
      (fun t => t.reg 0x1#4 == 0x02#8 && t.reg 0xF#4 == 0x01#8 && t.reg 0x2#4 == 0x07#8) = true := by decide

/-- alu29. -/
theorem test_subn_borrow :
    runs ((start.setReg 0x1#4 0x07#8).setReg 0x2#4 0x05#8) 0x8127
      (fun t => t.reg 0x1#4 == 0xFE#8 && t.reg 0xF#4 == 0x00#8) = true := by decide

/-- alu36. -/
theorem test_shr :
    runs ((start.setReg 0x1#4 0x05#8).setReg 0x2#4 0xAA#8) 0x8126
      (fun t => t.reg 0x1#4 == 0x02#8 && t.reg 0xF#4 == 0x01#8 && t.reg 0x2#4 == 0xAA#8) = true := by decide

/-- alu38. -/
theorem test_shr_vf :
    runs (start.setReg 0xF#4 0x03#8) 0x8F06 (fun t => t.reg 0xF#4 == 0x00#8) = true := by decide

/-- alu39. -/
theorem test_shl :
    runs (start.setReg 0x1#4 0x81#8) 0x810E
      (fun t => t.reg 0x1#4 == 0x02#8 && t.reg 0xF#4 == 0x01#8) = true := by decide

/-- alu43. -/
theorem test_shl_vf :
    runs (start.setReg 0xF#4 0x80#8) 0x8F0E (fun t => t.reg 0xF#4 == 0x02#8) = true := by decide

/-- alu45. -/
theorem test_rnd :
    runs (withRnd start 0xA7#8) 0xC10F (fun t => t.reg 0x1#4 == 0x07#8 && t.reg 0xF#4 == 0x77#8) = true := by decide

/-- alu46. -/
theorem test_rnd_zero_mask :
    runs (withRnd start 0xFF#8) 0xC100 (fun t => t.reg 0x1#4 == 0x00#8) = true := by decide

/-- alu37: with `SHIFT_USES_VY` the operand is `V[y]`. -/
theorem test_shift_uses_vy :
    runs { (start.setReg 0x1#4 0xAA#8).setReg 0x2#4 0x05#8 with config := { shiftUsesVy := true } } 0x8126
      (fun t => t.reg 0x1#4 == 0x02#8 && t.reg 0xF#4 == 0x01#8 && t.reg 0x2#4 == 0x05#8) = true := by decide

/-! ### One step: index register and memory (95, section 2.4) -/

/-- mem1. -/
theorem test_ld_i :
    runs start 0xA300 (fun t => t.index == 0x0300#16) = true := by decide

/-- mem4. -/
theorem test_add_i :
    runs ((start.setIndex 0xFFF#16).setReg 0x1#4 0x01#8) 0xF11E
      (fun t => t.index == 0x1000#16 && t.reg 0xF#4 == 0x77#8 && !t.halted) = true := by decide

/-- mem5. -/
theorem test_add_i_wraps :
    runs ((start.setIndex 0xFFFF#16).setReg 0x1#4 0x01#8) 0xF11E (fun t => t.index == 0x0000#16) = true := by decide

/-- mem7. -/
theorem test_ld_f :
    runs (start.setReg 0x0#4 0x0A#8) 0xF029 (fun t => t.index == 0x0082#16) = true := by decide

/-- mem9. -/
theorem test_ld_f_low_nibble :
    runs (start.setReg 0x0#4 0x1A#8) 0xF029 (fun t => t.index == 0x0082#16) = true := by decide

/-- mem13. -/
theorem test_ld_b :
    runs ((start.setIndex 0xFFD#16).setReg 0x0#4 0x7B#8) 0xF033
      (fun t => t.byteAt 0xFFD == 1#8 && t.byteAt 0xFFE == 2#8 && t.byteAt 0xFFF == 3#8) = true := by decide

/-- mem14. -/
theorem test_ld_b_bound :
    runs ((start.setIndex 0xFFE#16).setReg 0x0#4 0x7B#8) 0xF033
      (fun t => haltedAs .memoryBound 0x1000#17 0x202#16 t && t.byteAt 0xFFE == 0#8) = true := by decide

/-- mem15. -/
theorem test_st_regs :
    runs ((((start.setIndex 0x400#16).setReg 0x0#4 0x01#8).setReg 0x1#4 0x02#8).setReg 0x2#4 0x03#8) 0xF255
      (fun t => (List.range 4).map (fun k => t.byteAt (0x400 + k)) == [1#8, 2#8, 3#8, 0#8] && t.index == 0x400#16) = true := by decide

/-- mem18. -/
theorem test_st_regs_bound :
    runs ((start.setIndex 0xFF1#16).setReg 0x0#4 0x01#8) 0xFF55
      (fun t => haltedAs .memoryBound 0x1000#17 0x202#16 t && t.byteAt 0xFF1 == 0#8) = true := by decide

/-- mem20, from a memory of three bytes. -/
theorem test_ld_regs :
    runs (((start.setIndex 0x300#16).setReg 0x3#4 0x99#8).storeBytes 0x300 [2#8, 5#8, 4#8]) 0xF265
      (fun t => t.reg 0x0#4 == 0x02#8 && t.reg 0x1#4 == 0x05#8 && t.reg 0x2#4 == 0x04#8 && t.reg 0x3#4 == 0x99#8 && t.index == 0x0300#16) = true := by decide

/-- mem22. -/
theorem test_ld_regs_bound :
    runs ((start.setIndex 0xFFE#16).setReg 0x0#4 0x09#8) 0xF265
      (fun t => haltedAs .memoryBound 0x1000#17 0x202#16 t && t.reg 0x0#4 == 9#8) = true := by decide

/-- mem19. -/
theorem test_bound_reports_index :
    runs (start.setIndex 0xFFFF#16) 0xF055 (fun t => haltedAs .memoryBound 0xFFFF#17 0x202#16 t) = true := by decide

/-- A write of the byte an unlisted address reads as removes the entry: equal memories are equal data. -/
theorem test_memory_canonical :
    Memory.write (Memory.write (Memory.write [] 0x300 7#8) 0x50 0x11#8) 0x50 0xF0#8 = [(0x300, 7#8)] := by decide

/-! ### One step: display (95, section 2.5; sprite rows FF 81 FF at 0x300, 80 at 0xFFF) -/

/-- The memory of the display vectors. -/
def screen : State := (start.storeBytes 0x300 [0xFF#8, 0x81#8, 0xFF#8]).storeBytes 0xFFF [0x80#8]

/-- gfx3. -/
theorem test_drw_clips_columns :
    runs ((screen.setIndex 0x300#16).setReg 0x1#4 0x3C#8) 0xD121
      (fun t => pixel t.fb 60 0 && pixel t.fb 63 0 && !pixel t.fb 0 0 && !pixel t.fb 0 1 && t.reg 0xF#4 == 0x00#8) = true := by decide +kernel

/-- gfx6. -/
theorem test_drw_collides :
    runs ((screen.setIndex 0x301#16).setFb (flipPixel (flipPixel 0#2048 0 0) 7 0)) 0xD121
      (fun t => !pixel t.fb 0 0 && !pixel t.fb 7 0 && !pixel t.fb 1 0 && t.reg 0xF#4 == 0x01#8) = true := by decide +kernel

/-- gfx11. -/
theorem test_drw_bound :
    runs (screen.setIndex 0xFFF#16) 0xD122
      (fun t => haltedAs .memoryBound 0x1000#17 0x202#16 t && !pixel t.fb 0 0 && t.reg 0xF#4 == 0x77#8) = true := by decide +kernel

/-- gfx12. -/
theorem test_drw_clipped_row_not_read :
    runs ((screen.setIndex 0xFFF#16).setReg 0x2#4 0x1F#8) 0xD122
      (fun t => !t.halted && pixel t.fb 0 31 && t.reg 0xF#4 == 0x00#8) = true := by decide +kernel

/-- gfx15. -/
theorem test_drw_vf_coordinate :
    runs ((screen.setIndex 0x300#16).setReg 0xF#4 0x0A#8) 0xDF21
      (fun t => pixel t.fb 10 0 && pixel t.fb 17 0 && !pixel t.fb 9 0 && t.reg 0xF#4 == 0x00#8) = true := by decide +kernel

/-- gfx16. -/
theorem test_cls :
    runs (screen.setFb (flipPixel 0#2048 63 31)) 0x00E0
      (fun t => !pixel t.fb 63 31 && t.reg 0xF#4 == 0x77#8) = true := by decide +kernel

/-! ### One step: timers and keys (95, section 2.6) -/

/-- tmr1. -/
theorem test_ld_vx_dt :
    runs (start.setDt 7#8) 0xF107 (fun t => t.reg 0x1#4 == 0x07#8 && t.dt == 7#8) = true := by decide

/-- tmr7 with k = 3. -/
theorem test_ld_vx_dt_after_ticks :
    runs (withTicks (start.setDt 10#8) 3 0) 0xF107 (fun t => t.reg 0x1#4 == 0x07#8) = true := by decide

/-- tmr2. -/
theorem test_ld_dt_vx :
    runs (start.setReg 0x0#4 0x0A#8) 0xF015 (fun t => t.dt == 10#8) = true := by decide

/-- tmr5, the write. -/
theorem test_ld_st_vx :
    runs (start.setReg 0x2#4 0x03#8) 0xF218 (fun t => t.st == 3#8 && t.sounds == 0) = true := by decide

/-- tmr3 and tmr5, four ticks of each counter at 3. -/
theorem test_ticks_stop_at_zero :
    runs (withTicks ((start.setDt 3#8).setSt 3#8) 4 4) 0x6005
      (fun t => t.dt == 0#8 && t.st == 0#8 && t.sounds == 3) = true := by decide

/-- key5. -/
theorem test_skp :
    runs (withKeys (start.setReg 0x3#4 0x15#8) 0x0020#16) 0xE39E (fun t => t.pc == 0x0204#16) = true := by decide

/-- key2. -/
theorem test_skp_not_held :
    runs (start.setReg 0x3#4 0x05#8) 0xE39E (fun t => t.pc == 0x0202#16) = true := by decide

/-- key3. -/
theorem test_sknp_held :
    runs (withKeys (start.setReg 0x3#4 5#8) 0x0020#16) 0xE3A1 (fun t => t.pc == 0x0202#16) = true := by decide

/-- key4. -/
theorem test_sknp :
    runs (start.setReg 0x3#4 0x05#8) 0xE3A1 (fun t => t.pc == 0x0204#16) = true := by decide

/-- key6. -/
theorem test_ld_k_stalls :
    runs start 0xF30A (fun t => t.pc == 0x0200#16 && t.reg 0x3#4 == 0x00#8 && t.frames == 1) = true := by decide

/-- key7. -/
theorem test_ld_k :
    runs (withKeys start 0x0120#16) 0xF30A (fun t => t.reg 0x3#4 == 0x05#8 && t.pc == 0x0202#16) = true := by decide

/-! ### Witnesses: states and operands that meet the hypotheses of the statements -/

/-- Whether an outcome is a next state that satisfies `p`. -/
def leads (o : Host.Outcome State Fault Refusal) (p : State → Bool) : Bool :=
  match o with
  | .next t => p t
  | .fault _ => false
  | .refused _ => false

/-- A state outside the reset state that keeps the invariant: in a subroutine, in the last word of memory. -/
def inSubroutine : State := (start.setPc 0x0FFE#16).setStack [0x1000#16, 0x0202#16]

theorem witness_EncodeOfDecode :
    decode 0x8AB7#16 = .instr (.subn 0xA#4 0xB#4) ∧ decode 0x5AB1#16 = .unrecognized 0x5AB1#16 := by decide

theorem witness_DecodeMatchesTable :
    0x1234#16 &&& (tableRow (.jp 0x000#12)).1 = (tableRow (.jp 0x000#12)).2 ∧
      0x1234#16 &&& (tableRow (.jp 0xFFF#12)).1 = (tableRow (.jp 0xFFF#12)).2 := by decide

theorem witness_UnmatchedSelectors_family0 :
    opField 0x00E1#16 = 0x0#4 ∧ 0x00E1#16 ≠ 0x00E0#16 ∧ 0x00E1#16 ≠ 0x00EE#16 := by decide

theorem witness_UnmatchedSelectors_family5_9 :
    (opField 0x5AB1#16 = 0x5#4 ∧ nField 0x5AB1#16 ≠ 0x0#4) ∧
      opField 0x9ABF#16 = 0x9#4 ∧ nField 0x9ABF#16 ≠ 0x0#4 := by decide

theorem witness_UnmatchedSelectors_family8 :
    opField 0x8AB8#16 = 0x8#4 ∧
      nField 0x8AB8#16 ∉ [0x0#4, 0x1#4, 0x2#4, 0x3#4, 0x4#4, 0x5#4, 0x6#4, 0x7#4, 0xE#4] := by decide

theorem witness_UnmatchedSelectors_familyE_F :
    (opField 0xE19F#16 = 0xE#4 ∧ nnField 0xE19F#16 ∉ [0x9E#8, 0xA1#8]) ∧
      opField 0xF100#16 = 0xF#4 ∧
      nnField 0xF100#16 ∉ [0x07#8, 0x0A#8, 0x15#8, 0x18#8, 0x1E#8, 0x29#8, 0x33#8, 0x55#8, 0x65#8] := by decide

/-- `pc` = 4094 is the last that can be fetched at. -/
theorem witness_FetchReadsOrHalts_reads : (start.setPc 0x0FFE#16).pc.toNat ≤ 4094 := by decide

theorem witness_FetchReadsOrHalts_halts :
    (start.setPc 0x0FFF#16).inp.rst = false ∧ (start.setPc 0x0FFF#16).halted = false ∧
      4094 < (start.setPc 0x0FFF#16).pc.toNat := by decide

theorem witness_StepRunsDecoded :
    (start.withFetchWord 16 0x8AB7).inp.rst = false ∧ (start.withFetchWord 16 0x8AB7).halted = false ∧
      (start.withFetchWord 16 0x8AB7).pc.toNat ≤ 4094 ∧
      0x8AB7#16 = (start.withFetchWord 16 0x8AB7).byteAt 0x200 ++ (start.withFetchWord 16 0x8AB7).byteAt 0x201 ∧
      decode 0x8AB7#16 = .instr (.subn 0xA#4 0xB#4) := by decide

theorem witness_UnrecognizedHalts :
    start.inp.rst = false ∧ start.halted = false ∧ start.pc.toNat ≤ 4094 ∧
      0x0000#16 = start.byteAt 0x200 ++ start.byteAt 0x201 ∧ ∀ i, decode 0x0000#16 ≠ .instr i :=
  ⟨by decide, by decide, by decide, by decide, nofun⟩

theorem witness_HaltedStepOnlyTicks :
    (withTicks (start.raise .decodeGap 0xFFFF#17) 4 0).inp.rst = false ∧
      (withTicks (start.raise .decodeGap 0xFFFF#17) 4 0).halted = true := by decide

/-- Reset held, with three writes at the load port, two of them to one address. -/
def resetHeld : State :=
  { inSubroutine with
    inp := { Inputs.quiet with rst := true, load := [(0x200#12, 0x11#8), (0x201#12, 0x60#8), (0x200#12, 0x22#8)] } }

/-- Address 0x300 is no write's; after the write to 0x201 none goes there, although it is not the last; the last write
stands. -/
theorem witness_ResetHeld :
    resetHeld.mem.wf = true ∧ resetHeld.inp.rst = true ∧ (∀ c ∈ resetHeld.inp.load, c.1.toNat ≠ 0x300) ∧
      (resetHeld.inp.load = [(0x200#12, 0x11#8)] ++ (0x201#12, 0x60#8) :: [(0x200#12, 0x22#8)] ∧
        ∀ c ∈ [((0x200#12 : Addr12), (0x22#8 : Byte))], c.1 ≠ 0x201#12) ∧
      resetHeld.inp.load = [(0x200#12, 0x11#8), (0x201#12, 0x60#8)] ++ (0x200#12, 0x22#8) :: [] :=
  ⟨by decide, rfl, by simp [resetHeld], ⟨rfl, by simp⟩, rfl⟩

theorem witness_BootLoadsImage :
    (List.replicate 3584 0x60#8).length ≤ 4096 - 0x200 ∧ fontWhole defaultFont = true ∧
      4096 - 0x200 < (List.replicate 3585 0x60#8).length := by
  rw [List.length_replicate, List.length_replicate]
  exact ⟨by decide, by decide, by decide⟩

theorem witness_InvKeptByStep : MachineInv inSubroutine ∧ leads (step inSubroutine) (fun t => t.halted) = true := by
  refine ⟨⟨by decide, ⟨fun d h => ?_, by simp [inSubroutine, State.setStack]⟩, ?_, rfl, rfl⟩, by decide⟩
  · cases h
    decide
  · unfold PcBounded
    decide

theorem witness_ParametersNeverChange : leads (step start) (fun t => t.halted) = true := by decide

theorem witness_HaltsArePrecise :
    (start.halted = false ∧ leads (exec .ret start) (fun t => t.halted) = true) ∧
      leads (exec (.call 0x300#12) (start.setStack fullStack)) (fun t => t.halted) = true ∧
      leads (exec (.stRegs 0xF#4) (start.setIndex 0x0FF1#16)) (fun t => t.halted) = true ∧
      leads (exec (.drw 0x0#4 0x0#4 0x1#4) (start.setIndex 0x1000#16)) (fun t => t.halted) = true := by decide

theorem witness_RegisterWriters :
    leads (exec (.ldImm 0x1#4 0x05#8) start) (fun t => t.reg 0x1#4 != start.reg 0x1#4) = true ∧
      leads (exec (.addReg 0x1#4 0x2#4) start) (fun t => t.reg 0xF#4 != start.reg 0xF#4) = true ∧
      leads (exec (.ldRegs 0x1#4) (start.setIndex 0x0050#16)) (fun t => t.reg 0x1#4 != start.reg 0x1#4) = true := by
  decide

/-- `LD Vx, nn` is none of the writers of the other elements. -/
theorem witness_ElementWriters :
    leads (exec (.ldImm 0x1#4 0x05#8) start) (fun _ => true) = true ∧
      transfersControl (.ldImm 0x1#4 0x05#8) = false ∧ (∀ c, mayRaise (.ldImm 0x1#4 0x05#8) c = false) ∧
      (∀ x y n, Instr.ldImm 0x1#4 0x05#8 ≠ .drw x y n) ∧
      (∀ nnn, Instr.ldImm 0x1#4 0x05#8 ≠ .call nnn) ∧ (∀ nnn, Instr.ldImm 0x1#4 0x05#8 ≠ .ldI nnn) ∧
      (∀ x, Instr.ldImm 0x1#4 0x05#8 ≠ .addI x ∧ Instr.ldImm 0x1#4 0x05#8 ≠ .ldF x) ∧
      (∀ x, Instr.ldImm 0x1#4 0x05#8 ≠ .ldDtVx x) ∧ (∀ x, Instr.ldImm 0x1#4 0x05#8 ≠ .ldStVx x) ∧
      ∀ x, Instr.ldImm 0x1#4 0x05#8 ≠ .ldB x ∧ Instr.ldImm 0x1#4 0x05#8 ≠ .stRegs x :=
  ⟨by decide, by decide, fun _ => rfl, nofun, nofun, nofun, fun _ => ⟨nofun, nofun⟩, nofun, nofun, fun _ => ⟨nofun, nofun⟩⟩

theorem witness_InputsReadByFourOnly : readsInput (.addI 0x1#4) = false ∧ readsInput .ret = false := by decide

/-- Fifteen entries of sixteen: one more fits. -/
theorem witness_CallPushesAndJumps :
    ∀ d, (start.setStack (List.replicate 15 0x0206#16)).config.stackDepth = some d →
      (start.setStack (List.replicate 15 0x0206#16)).stack.length < d := by
  intro d h
  cases h
  decide

theorem witness_CallOverflowHalts :
    (start.setStack fullStack).config.stackDepth = some 16 ∧ 16 ≤ (start.setStack fullStack).stack.length := by
  decide

theorem witness_ReturnPopsOrHalts : inSubroutine.stack = 0x1000#16 :: [0x0202#16] ∧ start.stack = [] := by decide

/-- Sixteen calls fill the stack from empty. -/
theorem witness_NestedCallsReturn :
    (∀ d, start.config.stackDepth = some d → start.stack.length + (List.replicate 16 0x300#12).length ≤ d) ∧
      List.replicate 16 0x300#12 ≠ [] ∧ start.stack = [] := by
  refine ⟨fun d h => ?_, by decide, by decide⟩
  cases h
  decide

theorem witness_ShiftRightOne :
    0x77#8 = (if start.config.shiftUsesVy then start.reg 0x1#4 else start.reg 0xF#4) := by decide

theorem witness_ShiftLeftOne :
    0x00#8 = (if start.config.shiftUsesVy then start.reg 0xF#4 else start.reg 0x1#4) := by decide

theorem witness_FlagLaws :
    0x1#4 ≠ 0xF#4 ∧ start.config.shiftUsesVy = false ∧ start.reg 0x1#4 = 0x00#8 ∧ start.reg 0xF#4 = 0x77#8 := by
  decide

/-- The last legal `I` of `LD B, Vx`. -/
theorem witness_BcdStored :
    (start.setIndex 0x0FFD#16).mem.wf = true ∧ (start.setIndex 0x0FFD#16).index.toNat + 2 ≤ 4095 := by decide

/-- The last legal `I` of sixteen registers. -/
theorem witness_RegistersStored :
    (start.setIndex 0x0FF0#16).mem.wf = true ∧ (start.setIndex 0x0FF0#16).index.toNat + (0xF#4).toNat ≤ 4095 := by decide

theorem witness_RegistersLoaded : (start.setIndex 0x0FFF#16).index.toNat + (0x0#4).toNat ≤ 4095 := by decide

theorem witness_StoreThenLoadRestores :
    (start.setIndex 0x0300#16).mem.wf = true ∧ (start.setIndex 0x0300#16).index.toNat + (0xF#4).toNat ≤ 4095 := by decide

/-- The first illegal `I` of each of the four. -/
theorem witness_RangeViolationHalts :
    4095 < (start.setIndex 0x0FFE#16).index.toNat + 2 ∧
      4095 < (start.setIndex 0x0FF1#16).index.toNat + (0xF#4).toNat ∧
      4095 < (start.setIndex 0x1000#16).index.toNat + (0x0#4).toNat ∧
      2 = min (0x2#4).toNat (32 - ((start.setIndex 0x0FFF#16).reg 0x0#4).toNat % 32) ∧ 0 < 2 ∧
      4095 < (start.setIndex 0x0FFF#16).index.toNat + 2 - 1 := by
  decide

theorem witness_StoredCodeIsFetched :
    (start.setIndex 0x0200#16).mem.wf = true ∧ (start.setIndex 0x0200#16).index = (start.setIndex 0x0200#16).pc ∧
      1 ≤ (0x1#4).toNat ∧ (start.setIndex 0x0200#16).index.toNat + (0x1#4).toNat ≤ 4095 := by decide

/-- The sprite of the three display witnesses: one row of the font, from V2 = 65, V3 = 63, so at the origin (1, 31). -/
def oneRow : State := ((start.setIndex 0x0050#16).setReg 0x2#4 65#8).setReg 0x3#4 63#8

/-- Two rows asked for, one drawn, in bounds; and a draw of no rows above memory. -/
theorem witness_DrawFlipsPixels :
    (1 = (oneRow.reg 0x2#4).toNat % 64 ∧ 31 = (oneRow.reg 0x3#4).toNat % 32 ∧ 1 = min (0x2#4).toNat (32 - 31) ∧
      oneRow.index.toNat + 1 - 1 ≤ 4095) ∧
      0 = min (0x0#4).toNat (32 - ((start.setIndex 0xFFFF#16).reg 0x0#4).toNat % 32) := by decide

/-- A pixel under a sprite bit, set before: a collision. -/
theorem witness_DrawFlipsPixels_collision :
    ∃ px py, px < 64 ∧ py < 32 ∧ spriteBit oneRow.mem oneRow.index.toNat 1 31 1 px py = true ∧
      pixel (oneRow.setFb (flipPixel 0#2048 1 31)).fb px py = true :=
  ⟨1, 31, by decide, by decide, by decide, by decide +kernel⟩

/-- A clear screen: no collision. -/
theorem witness_DrawFlipsPixels_clear :
    ∀ px py, px < 64 → py < 32 → spriteBit oneRow.mem oneRow.index.toNat 1 31 1 px py = true →
      pixel oneRow.fb px py = false := fun _ _ _ _ _ => BitVec.getLsbD_zero

/-- The same sprite, twice from a clear screen; one bit of it is visible. -/
theorem witness_DrawTwiceRestores :
    (0x2#4 ≠ 0xF#4 ∧ 0x3#4 ≠ 0xF#4 ∧ 1 = (oneRow.reg 0x2#4).toNat % 64 ∧ 31 = (oneRow.reg 0x3#4).toNat % 32 ∧
      1 = min (0x2#4).toNat (32 - 31) ∧ oneRow.index.toNat + 1 - 1 ≤ 4095) ∧
      (∀ px py, px < 64 → py < 32 → pixel oneRow.fb px py = false) ∧
      spriteBit oneRow.mem oneRow.index.toNat 1 31 1 1 31 = true :=
  ⟨by decide, fun _ _ _ _ => BitVec.getLsbD_zero, by decide⟩

theorem witness_KeySkips :
    true = (withKeys (start.setReg 0x3#4 0x15#8) 0x0020#16).inp.keys.getLsbD
        (((withKeys (start.setReg 0x3#4 0x15#8) 0x0020#16).reg 0x3#4).toNat % 16) ∧
      false = start.inp.keys.getLsbD ((start.reg 0x3#4).toNat % 16) := by decide

theorem witness_KeyWaitReturnsLowest : (withKeys start 0x8000#16).inp.keys ≠ 0#16 := by decide

/-- A key wait during which ticks arrived. -/
def waiting : State := withTicks ((start.setDt 5#8).withFetchWord 16 0xF30A) 2 1

theorem witness_KeyWaitStalls :
    waiting.inp.rst = false ∧ waiting.halted = false ∧ waiting.pc.toNat ≤ 4094 ∧ waiting.inp.keys = 0#16 ∧
      waiting.inp.dtTicks = 2 ∧ waiting.inp.stTicks = 1 ∧
      0xF30A#16 = waiting.byteAt 0x200 ++ waiting.byteAt 0x201 ∧ decode 0xF30A#16 = .instr (.ldK 0x3#4) := by decide

end Sys2Proof.Tests
end

section
/-! RET: its two cases, by whether the call stack is empty (spec/10_state.md R31, spec/60_exceptions.md R182). -/

namespace Sys2Proof.Machine

theorem State.pop_of_stack_eq_nil {s : State} (h : s.stack = []) (w : Word) (rest : Word → State → State) :
    s.pop w rest = s.raise .stackUnderflow (wordInfo w) := by
  obtain ⟨-, hpop⟩ | ⟨v, older, hcons, -⟩ := s.pop_cases w rest
  · exact hpop
  · simp [h] at hcons

theorem State.pop_of_stack_eq_cons {s : State} {v : Word} {older : List Word} (h : s.stack = v :: older) (w : Word)
    (rest : Word → State → State) : s.pop w rest = rest v (s.setStack older) := by
  obtain ⟨hnil, -⟩ | ⟨v', older', hcons, hpop⟩ := s.pop_cases w rest
  · simp [h] at hnil
  · obtain ⟨rfl, rfl⟩ := List.cons.inj (h.symm.trans hcons)
    exact hpop

theorem exec_ret (s : State) : exec .ret s = .next (s.pop (encode .ret) fun v t => t.setPc v) := rfl

theorem exec_ret_of_stack_eq_nil {s : State} (h : s.stack = []) :
    exec .ret s = .next (s.raise .stackUnderflow (wordInfo (encode .ret))) := by
  rw [exec_ret, State.pop_of_stack_eq_nil h]

theorem exec_ret_of_stack_eq_cons {s : State} {v : Word} {older : List Word} (h : s.stack = v :: older) :
    exec .ret s = .next ((s.setStack older).setPc v) := by
  rw [exec_ret, State.pop_of_stack_eq_cons h]

theorem State.setStack_setPc_frame (s : State) (l : List Word) (w : Word) :
    ChangesOnly [.pc, .stack] s ((s.setStack l).setPc w) :=
  ((s.setStack_frame l).mono (by simp)).trans (((s.setStack l).setPc_frame w).mono (by simp))

/-- Settles O26: the two equations of RET, each with the frame of the operations it leaves. -/
theorem returnPopsOrHalts : Obligations.ReturnPopsOrHalts := by
  intro s
  constructor
  · intro v older hstack
    exact ⟨_, exec_ret_of_stack_eq_cons hstack, rfl, rfl, s.setStack_setPc_frame older v⟩
  · intro hstack
    exact ⟨_, exec_ret_of_stack_eq_nil hstack, rfl, rfl, rfl, s.raise_frame _ _⟩

end Sys2Proof.Machine
end

section
/-! The literal jump and the four conditional skips: the reading of the words 1NNN and 3XNN, and `pc` as the one
element that changes (spec/41_control_flow.md R111, R113 to R116, R118). -/

namespace Sys2Proof

theorem decode_of_opField_eq_one {w : Word} (h : opField w = 0x1#4) : decode w = .instr (.jp (nnnField w)) := by
  simp [decode, h]

theorem decode_of_opField_eq_three {w : Word} (h : opField w = 0x3#4) :
    decode w = .instr (.seImm (xField w) (nnField w)) := by
  simp [decode, h]

theorem decode_wordNNN_one (nnn : Addr12) : decode (wordNNN 0x1#4 nnn) = .instr (.jp nnn) := by
  rw [decode_of_opField_eq_one (opField_wordNNN _ _), nnnField_wordNNN]

theorem decode_wordXNN_three (x : Nibble) (nn : Byte) : decode (wordXNN 0x3#4 x nn) = .instr (.seImm x nn) := by
  rw [decode_of_opField_eq_three (opField_wordXNN _ _ _), xField_wordXNN, nnField_wordXNN]

end Sys2Proof

namespace Sys2Proof.Machine

@[simp] theorem addrOperand_toNat (nnn : Addr12) : (addrOperand nnn).toNat = nnn.toNat :=
  BitVec.toNat_setWidth_of_le (by decide)

theorem State.skipIf_pc (s : State) {c : Bool} {P : Prop} [Decidable P] (h : c = true ↔ P) :
    (s.skipIf c).pc = if P then s.pc + 2#16 else s.pc := by
  simp only [State.skipIf_eq, State.setPc_pc, h]

theorem State.skipIf_frame (s : State) (c : Bool) : ChangesOnly [.pc] s (s.skipIf c) := by
  rw [State.skipIf_eq]
  exact s.setPc_frame _

theorem exec_jp (nnn : Addr12) (s : State) : exec (.jp nnn) s = .next (s.setPc (addrOperand nnn)) := rfl

theorem exec_seImm (x : Nibble) (nn : Byte) (s : State) :
    exec (.seImm x nn) s = .next (s.skipIf (s.reg x == nn)) := rfl

theorem exec_sneImm (x : Nibble) (nn : Byte) (s : State) :
    exec (.sneImm x nn) s = .next (s.skipIf (s.reg x != nn)) := rfl

theorem exec_seReg (x y : Nibble) (s : State) :
    exec (.seReg x y) s = .next (s.skipIf (s.reg x == s.reg y)) := rfl

theorem exec_sneReg (x y : Nibble) (s : State) :
    exec (.sneReg x y) s = .next (s.skipIf (s.reg x != s.reg y)) := rfl

/-- Settles O22: each skip is `skipIf` of its comparison, which moves `pc` by 2 exactly when the comparison holds. -/
theorem skipsAddTwo : Obligations.SkipsAddTwo := by
  intro x y nn s
  refine ⟨decode_wordXNN_three x nn, ?seImm, ?sneImm, ?seReg, ?sneReg⟩
  case seImm => exact ⟨_, exec_seImm x nn s, s.skipIf_pc beq_iff_eq, s.skipIf_frame _⟩
  case sneImm => exact ⟨_, exec_sneImm x nn s, s.skipIf_pc bne_iff_ne, s.skipIf_frame _⟩
  case seReg => exact ⟨_, exec_seReg x y s, s.skipIf_pc beq_iff_eq, s.skipIf_frame _⟩
  case sneReg => exact ⟨_, exec_sneReg x y s, s.skipIf_pc bne_iff_ne, s.skipIf_frame _⟩

/-- Settles O21: the jump is one write of `pc`, and zero extension keeps the value of the address. -/
theorem jumpSetsPc : Obligations.JumpSetsPc := by
  intro nnn s
  exact ⟨decode_wordNNN_one nnn, _, exec_jp nnn s, addrOperand_toNat nnn, s.setPc_frame _⟩

end Sys2Proof.Machine
end

section
/-! The immediate load: the reading of the word 6XNN, and one register as the only change (spec/42_alu.md R130). -/

namespace Sys2Proof

theorem decode_of_opField_eq_six {w : Word} (h : opField w = 0x6#4) :
    decode w = .instr (.ldImm (xField w) (nnField w)) := by
  simp [decode, h]

theorem decode_wordXNN_six (x : Nibble) (nn : Byte) : decode (wordXNN 0x6#4 x nn) = .instr (.ldImm x nn) := by
  rw [decode_of_opField_eq_six (opField_wordXNN _ _ _), xField_wordXNN, nnField_wordXNN]

end Sys2Proof

namespace Sys2Proof.Machine

theorem exec_ldImm (x : Nibble) (nn : Byte) (s : State) : exec (.ldImm x nn) s = .next (s.setReg x nn) := rfl

/-- Settles O28: the load is one register write, which is read back at `x` and leaves the rest, VF being no exception. -/
theorem loadImmediate : Obligations.LoadImmediate := by
  intro x nn s
  exact ⟨decode_wordXNN_six x nn, _, exec_ldImm x nn s, fun r => s.reg_setReg x r nn, s.setReg_frame x nn⟩

end Sys2Proof.Machine
end

section
/-! The two timer agents: one tick of each, by whether its counter is zero (spec/60_exceptions.md R191, R192). -/

namespace Sys2Proof.Machine

theorem toNat_sub_one_of_ne_zero {b : Byte} (h : b ≠ 0#8) : (b - 1#8).toNat = b.toNat - 1 :=
  BitVec.toNat_sub_of_le (by bv_omega)

/-! ### TickDT -/

theorem State.tickDT_of_dt_eq_zero {s : State} (h : s.dt = 0#8) : s.tickDT = s := if_pos h

theorem State.tickDT_of_dt_ne_zero {s : State} (h : s.dt ≠ 0#8) : s.tickDT = s.setDt (s.dt - 1#8) := if_neg h

theorem State.tickDT_dt_toNat (s : State) : s.tickDT.dt.toNat = s.dt.toNat - 1 := by
  by_cases h : s.dt = 0#8
  · simp [State.tickDT_of_dt_eq_zero h, h]
  · rw [State.tickDT_of_dt_ne_zero h]
    exact toNat_sub_one_of_ne_zero h

theorem State.tickDT_frame (s : State) : ChangesOnly [.dt] s s.tickDT := by
  by_cases h : s.dt = 0#8
  · rw [State.tickDT_of_dt_eq_zero h]
    exact .refl _ s
  · rw [State.tickDT_of_dt_ne_zero h]
    exact s.setDt_frame _

/-! ### TickST -/

theorem State.tickST_of_st_eq_zero {s : State} (h : s.st = 0#8) : s.tickST = s := if_pos h

theorem State.tickST_of_st_ne_zero {s : State} (h : s.st ≠ 0#8) :
    s.tickST = { s.setSt (s.st - 1#8) with sounds := s.sounds + 1 } := if_neg h

theorem State.tickST_st_toNat (s : State) : s.tickST.st.toNat = s.st.toNat - 1 := by
  by_cases h : s.st = 0#8
  · simp [State.tickST_of_st_eq_zero h, h]
  · rw [State.tickST_of_st_ne_zero h]
    exact toNat_sub_one_of_ne_zero h

theorem State.tickST_sounds (s : State) :
    s.tickST.sounds = if s.st = 0#8 then s.sounds else s.sounds + 1 := by
  by_cases h : s.st = 0#8
  · rw [State.tickST_of_st_eq_zero h, if_pos h]
  · rw [State.tickST_of_st_ne_zero h, if_neg h]

@[simp] theorem State.tickST_frames (s : State) : s.tickST.frames = s.frames := by
  by_cases h : s.st = 0#8
  · rw [State.tickST_of_st_eq_zero h]
  · rw [State.tickST_of_st_ne_zero h, State.setSt_frames]

/-- The count of sound events is no element of R20. -/
theorem Keeps.withSounds {s t : State} {p : Part} (h : Keeps s t p) (n : Nat) :
    Keeps s { t with sounds := n } p := by
  cases p <;> exact h

theorem State.tickST_keeps (s : State) {p : Part} (hp : p ≠ .st) : Keeps s s.tickST p := by
  by_cases h : s.st = 0#8
  · rw [State.tickST_of_st_eq_zero h]
    exact .refl s p
  · obtain ⟨-, hkeeps⟩ := s.setSt_frame (s.st - 1#8)
    rw [State.tickST_of_st_ne_zero h]
    exact (hkeeps p (by simpa using hp)).withSounds _

/-- Settles O51: each tick by whether its counter is zero; a live tick of `ST` adds one sound to the write of `ST`. -/
theorem tickDecrements : Obligations.TickDecrements := by
  intro s
  obtain ⟨⟨-, -, -, -, hframes, hsounds⟩, hkeeps⟩ := s.tickDT_frame
  exact ⟨⟨s.tickDT_dt_toNat, hsounds, hframes, fun p hp => hkeeps p (by simpa using hp)⟩,
    ⟨s.tickST_st_toNat, s.tickST_sounds, s.tickST_frames, fun _ => s.tickST_keeps⟩⟩

end Sys2Proof.Machine
end

section
/-! The Decoder against the encoder: each reads back what the other wrote (spec/30_encoding.md sections 3, 4 and 6). -/

namespace Sys2Proof

/-! ### Words put together from their fields, some of them known -/

theorem wordNNN_of_fields {w : Word} {op : Nibble} (hop : opField w = op) : wordNNN op (nnnField w) = w :=
  hop ▸ wordNNN_fields w

theorem wordXNN_of_fields {w : Word} {op : Nibble} {nn : Byte} (hop : opField w = op) (hnn : nnField w = nn) :
    wordXNN op (xField w) nn = w :=
  hop ▸ hnn ▸ wordXNN_fields w

theorem wordXYN_of_fields {w : Word} {op n : Nibble} (hop : opField w = op) (hn : nField w = n) :
    wordXYN op (xField w) (yField w) n = w :=
  hop ▸ hn ▸ wordXYN_fields w

/-! ### Decode of encode -/

/-- The Decoder finds the family in `op` and the member in the selector, which are the fields the encoder wrote. -/
theorem decode_encode (i : Instr) : decode (encode i) = .instr i := by
  cases i with
  | cls | ret => decide
  | jp nnn | call nnn | ldI nnn | jpV0 nnn => simp [encode, decode]
  | seImm x nn | sneImm x nn | ldImm x nn | addImm x nn | rnd x nn => simp [encode, decode]
  | seReg x y | sneReg x y => simp [encode, decode]
  | drw x y n => simp [encode, decode]
  | ldReg x y | orReg x y | andReg x y | xorReg x y | addReg x y | sub x y | shr x y | subn x y | shl x y =>
    simp [encode, decode, decodeFamily8]
  | skp x | sknp x => simp [encode, decode, decodeFamilyE]
  | ldVxDt x | ldK x | ldDtVx x | ldStVx x | addI x | ldF x | ldB x | stRegs x | ldRegs x =>
    simp [encode, decode, decodeFamilyF]

theorem decodeBytes_bytesOfWord {w : Word} {i : Instr} (h : decode w = .instr i) (rest : List Byte) :
    decodeBytes (bytesOfWord w ++ rest) = .ok (i, rest) := by
  simp [bytesOfWord, decodeBytes, wordOfBytes_bytesOfWord, h]

/-- Settles O1: by the family of the instruction; the bytes follow, since two bytes make up their word again. -/
theorem decodeOfEncode : Obligations.DecodeOfEncode := by
  intro i rest
  exact ⟨decode_encode i, decodeBytes_bytesOfWord (decode_encode i) rest⟩

/-! ### Encode of decode -/

/-- What the Decoder can answer to `w`: an instruction of which `w` is the word, or the rejection of `w`. -/
def Reads (w : Word) (d : Decoded) : Prop := (∃ i, d = .instr i ∧ encode i = w) ∨ d = .unrecognized w

theorem Reads.instr {w : Word} {i : Instr} (h : encode i = w) : Reads w (.instr i) := .inl ⟨i, rfl, h⟩

theorem Reads.unrecognized (w : Word) : Reads w (.unrecognized w) := .inr rfl

theorem decodeFamily8_reads {w : Word} (hop : opField w = 0x8#4) : Reads w (decodeFamily8 w) := by
  unfold decodeFamily8
  split
  case h_10 => exact .unrecognized w
  all_goals next hn => exact .instr (wordXYN_of_fields hop (BitVec.eq_of_toNat_eq hn))

theorem decodeFamilyE_reads {w : Word} (hop : opField w = 0xE#4) : Reads w (decodeFamilyE w) := by
  unfold decodeFamilyE
  split
  case h_3 => exact .unrecognized w
  all_goals next hnn => exact .instr (wordXNN_of_fields hop (BitVec.eq_of_toNat_eq hnn))

theorem decodeFamilyF_reads {w : Word} (hop : opField w = 0xF#4) : Reads w (decodeFamilyF w) := by
  unfold decodeFamilyF
  split
  case h_10 => exact .unrecognized w
  all_goals next hnn => exact .instr (wordXNN_of_fields hop (BitVec.eq_of_toNat_eq hnn))

/-- The one inversion of the Decoder, family by family. -/
theorem decode_reads (w : Word) : Reads w (decode w) := by
  unfold decode
  split
  case h_1 =>
    split
    next hcls => exact .instr hcls.symm
    next =>
      split
      next hret => exact .instr hret.symm
      next => exact .unrecognized w
  case h_2 hop | h_3 hop | h_11 hop | h_12 hop =>
    exact .instr (wordNNN_of_fields (BitVec.eq_of_toNat_eq hop))
  case h_4 hop | h_5 hop | h_7 hop | h_8 hop | h_13 hop =>
    exact .instr (wordXNN_of_fields (BitVec.eq_of_toNat_eq hop) rfl)
  case h_6 hop | h_10 hop =>
    split
    next hn => exact .instr (wordXYN_of_fields (BitVec.eq_of_toNat_eq hop) hn)
    next => exact .unrecognized w
  case h_9 hop => exact decodeFamily8_reads (BitVec.eq_of_toNat_eq hop)
  case h_14 hop => exact .instr (wordXYN_of_fields (BitVec.eq_of_toNat_eq hop) rfl)
  case h_15 hop => exact decodeFamilyE_reads (BitVec.eq_of_toNat_eq hop)
  case h_16 =>
    have hlt := (opField w).isLt
    simp only [imp_false] at *
    exact decodeFamilyF_reads (BitVec.eq_of_toNat_eq (by simp only [BitVec.toNat_ofNat]; omega))

theorem encode_of_decode {w : Word} {i : Instr} (h : decode w = .instr i) : encode i = w := by
  obtain ⟨j, hj, hw⟩ | hu := decode_reads w
  · cases h.symm.trans hj
    exact hw
  · cases h.symm.trans hu

theorem eq_of_decode_unrecognized {w u : Word} (h : decode w = .unrecognized u) : u = w := by
  obtain ⟨i, hi, -⟩ | hu := decode_reads w
  · cases h.symm.trans hi
  · exact Decoded.unrecognized.inj (h.symm.trans hu)

/-- Settles O2: the two answers of `decode_reads`. -/
theorem encodeOfDecode : Obligations.EncodeOfDecode := by
  intro w
  exact ⟨fun i => encode_of_decode, fun u => eq_of_decode_unrecognized⟩

/-! ### The opcode map -/

theorem encode_matches_row (i : Instr) : Laws.TableRow.Statement i := by
  cases i with
  | cls => exact Laws.TableRow.cls
  | ret => exact Laws.TableRow.ret
  | jp nnn => exact Laws.TableRow.jp nnn
  | call nnn => exact Laws.TableRow.call nnn
  | seImm x nn => exact Laws.TableRow.seImm x nn
  | sneImm x nn => exact Laws.TableRow.sneImm x nn
  | seReg x y => exact Laws.TableRow.seReg x y
  | ldImm x nn => exact Laws.TableRow.ldImm x nn
  | addImm x nn => exact Laws.TableRow.addImm x nn
  | ldReg x y => exact Laws.TableRow.ldReg x y
  | orReg x y => exact Laws.TableRow.orReg x y
  | andReg x y => exact Laws.TableRow.andReg x y
  | xorReg x y => exact Laws.TableRow.xorReg x y
  | addReg x y => exact Laws.TableRow.addReg x y
  | sub x y => exact Laws.TableRow.sub x y
  | shr x y => exact Laws.TableRow.shr x y
  | subn x y => exact Laws.TableRow.subn x y
  | shl x y => exact Laws.TableRow.shl x y
  | sneReg x y => exact Laws.TableRow.sneReg x y
  | ldI nnn => exact Laws.TableRow.ldI nnn
  | jpV0 nnn => exact Laws.TableRow.jpV0 nnn
  | rnd x nn => exact Laws.TableRow.rnd x nn
  | drw x y n => exact Laws.TableRow.drw x y n
  | skp x => exact Laws.TableRow.skp x
  | sknp x => exact Laws.TableRow.sknp x
  | ldVxDt x => exact Laws.TableRow.ldVxDt x
  | ldK x => exact Laws.TableRow.ldK x
  | ldDtVx x => exact Laws.TableRow.ldDtVx x
  | ldStVx x => exact Laws.TableRow.ldStVx x
  | addI x => exact Laws.TableRow.addI x
  | ldF x => exact Laws.TableRow.ldF x
  | ldB x => exact Laws.TableRow.ldB x
  | stRegs x => exact Laws.TableRow.stRegs x
  | ldRegs x => exact Laws.TableRow.ldRegs x

theorem opField_of_and_F000 {w r : Word} (h : w &&& 0xF000#16 = r) : opField w = r.extractLsb' 12 4 := by
  rw [← opField, ← h, and_F000, opField_wordNNN]

theorem opField_of_and_F00F {w r : Word} (h : w &&& 0xF00F#16 = r) : opField w = r.extractLsb' 12 4 := by
  rw [← opField, ← h, and_F00F, opField_wordXYN]

theorem nField_of_and_F00F {w r : Word} (h : w &&& 0xF00F#16 = r) : nField w = r.extractLsb' 0 4 := by
  rw [← nField, ← h, and_F00F, nField_wordXYN]

theorem opField_of_and_F0FF {w r : Word} (h : w &&& 0xF0FF#16 = r) : opField w = r.extractLsb' 12 4 := by
  rw [← opField, ← h, and_F0FF, opField_wordXNN]

theorem nnField_of_and_F0FF {w r : Word} (h : w &&& 0xF0FF#16 = r) : nnField w = r.extractLsb' 0 8 := by
  rw [← nnField, ← h, and_F0FF, nnField_wordXNN]

theorem eq_of_and_FFFF {w r : Word} (h : w &&& 0xFFFF#16 = r) : w = r :=
  (BitVec.and_allOnes (x := w)).symm.trans h

/-- A word that matches a row is decoded to an instruction of that row: the fixed bits of a row are the family and the
selector that the Decoder looks at. -/
theorem exists_decode_of_matches_row {w : Word} {j : Instr} (h : w &&& (tableRow j).1 = (tableRow j).2) :
    ∃ i, decode w = .instr i ∧ tableRow i = tableRow j := by
  cases j with simp only [tableRow] at h
  | cls => exact ⟨.cls, by rw [eq_of_and_FFFF h]; decide, rfl⟩
  | ret => exact ⟨.ret, by rw [eq_of_and_FFFF h]; decide, rfl⟩
  | jp | call | seImm | sneImm | ldImm | addImm | ldI | jpV0 | rnd | drw =>
    simp [decode, tableRow, opField_of_and_F000 h]
  | seReg | sneReg => simp [decode, tableRow, opField_of_and_F00F h, nField_of_and_F00F h]
  | ldReg | orReg | andReg | xorReg | addReg | sub | shr | subn | shl =>
    simp [decode, decodeFamily8, tableRow, opField_of_and_F00F h, nField_of_and_F00F h]
  | skp | sknp => simp [decode, decodeFamilyE, tableRow, opField_of_and_F0FF h, nnField_of_and_F0FF h]
  | ldVxDt | ldK | ldDtVx | ldStVx | addI | ldF | ldB | stRegs | ldRegs =>
    simp [decode, decodeFamilyF, tableRow, opField_of_and_F0FF h, nnField_of_and_F0FF h]

/-- Settles O3: a decoded word is an encoded one and matches its row; two rows that match one word are the row of what
it decodes to. -/
theorem decodeMatchesTable : Obligations.DecodeMatchesTable := by
  refine ⟨?decoded, ?matched, ?apart⟩
  case decoded =>
    intro w i h
    rw [← encode_of_decode h]
    exact encode_matches_row i
  case matched =>
    intro w j h
    obtain ⟨i, hi, -⟩ := exists_decode_of_matches_row h
    exact ⟨i, hi⟩
  case apart =>
    intro w i j hi hj
    obtain ⟨i', hdec, hrow⟩ := exists_decode_of_matches_row hi
    obtain ⟨j', hdec', hrow'⟩ := exists_decode_of_matches_row hj
    cases hdec.symm.trans hdec'
    exact hrow.symm.trans hrow'

/-! ### Rejected words -/

theorem decode_unrecognized_of_forall_encode_ne {w : Word} (h : ∀ i, encode i ≠ w) : decode w = .unrecognized w := by
  obtain ⟨i, -, hw⟩ | hu := decode_reads w
  · exact absurd hw (h i)
  · exact hu

theorem decode_unrecognized_of_forall_ne {w : Word} (h : ∀ i, decode w ≠ .instr i) : decode w = .unrecognized w :=
  decode_unrecognized_of_forall_encode_ne fun i hw => h i (hw ▸ decode_encode i)

theorem opField_encode_cls : opField (encode .cls) = 0x0#4 := by decide

theorem opField_encode_ret : opField (encode .ret) = 0x0#4 := by decide

/-- Settles O4: no instruction's word has the family and the selector of any of the five clauses. -/
theorem unmatchedSelectors : Obligations.UnmatchedSelectors := by
  intro w
  refine ⟨fun hop hcls hret => ?family0, fun hop hn => ?families59, fun hop hn => ?family8, fun hop hnn => ?familyE,
    fun hop hnn => ?familyF⟩ <;> refine decode_unrecognized_of_forall_encode_ne fun i hw => ?_ <;> subst hw
  case family0 => cases i <;> simp_all [encode]
  all_goals
    cases i with
    | cls => simp [opField_encode_cls] at hop
    | ret => simp [opField_encode_ret] at hop
    | _ => simp_all [encode]

/-- Settles O5: the Decoder runs on each of the words. -/
theorem writtenOutWordsDecode : Obligations.WrittenOutWordsDecode := by
  unfold Obligations.WrittenOutWordsDecode
  decide

end Sys2Proof
end

section
/-! What an instruction can do, said once: it halts, or it changes the parts of the state that are its own
(spec/10_state.md sections 3 to 9, spec/60_exceptions.md sections 1 and 2). The rules of the whole machine follow by its cases. -/

namespace Sys2Proof.Machine

/-- The general registers an instruction may change (10 section 3). -/
def MayWriteReg (i : Instr) (r : Nibble) : Prop :=
  destReg i = some r ∨ (r = 0xF#4 ∧ flagWriter i = true) ∨ ∃ x, i = .ldRegs x ∧ r.toNat ≤ x.toNat

/-- The values `pc` can take under a control transfer that leaves the stack alone (R26, R117, R118, R175). -/
def PcTarget (s : State) (w : Word) : Prop :=
  w = s.pc ∨ w = s.pc + 2#16 ∨ w = s.pc - 2#16 ∨ w.toNat ≤ 0x10FE

/-- The next states of `i` from `s`, one rule per part of the state that changes. -/
inductive Completes (i : Instr) (s : State) : State → Prop
  | halt (c : HaltCause) (info : HaltInfo) (hraise : mayRaise i c = true) (hlatch : LatchCoherent (s.raise c info)) :
      Completes i s (s.raise c info)
  | regs (w : Vector Byte 16) (hw : ∀ r, State.reg { s with v := w } r ≠ s.reg r → MayWriteReg i r) :
      Completes i s { s with v := w }
  | index (w : Word) (hi : (∃ nnn, i = .ldI nnn) ∨ ∃ x, i = .addI x ∨ i = .ldF x) : Completes i s (s.setIndex w)
  | pc (w : Word) (hi : transfersControl i = true) (hw : PcTarget s w) : Completes i s (s.setPc w)
  | call (nnn : Addr12) (hi : i = .call nnn) (hroom : s.stackFull = false) :
      Completes i s ((s.setStack (s.pc :: s.stack)).setPc (addrOperand nnn))
  | ret (hi : i = .ret) (v : Word) (older : List Word) (hstack : s.stack = v :: older) :
      Completes i s ((s.setStack older).setPc v)
  | clear (hi : i = .cls) : Completes i s (s.setFb 0#2048)
  | draw (x y n : Nibble) (hi : i = .drw x y n) (f : Framebuffer) (hit : Bool) :
      Completes i s ((s.setFb f).setFlag hit)
  | dt (x : Nibble) (hi : i = .ldDtVx x) : Completes i s (s.setDt (s.reg x))
  | st (x : Nibble) (hi : i = .ldStVx x) : Completes i s (s.setSt (s.reg x))
  | store (x : Nibble) (hi : i = .ldB x ∨ i = .stRegs x) (a : Nat) (bs : List Byte) : Completes i s (s.storeBytes a bs)

/-! ### The rules for shared operations -/

theorem Completes.setReg {i : Instr} {x : Nibble} (hi : destReg i = some x) (s : State) (b : Byte) :
    Completes i s (s.setReg x b) := by
  refine .regs _ fun r (hr : (s.setReg x b).reg r ≠ s.reg r) => .inl ?_
  by_cases h : r = x
  · rw [h, hi]
  · simp [h] at hr

/-- Writes of the destination and of VF, in either order. -/
theorem Completes.of_reg_eq {i : Instr} {x : Nibble} (hi : destReg i = some x) (hflag : flagWriter i = true)
    {s t : State} (ht : { s with v := t.v } = t) (hreg : ∀ r, r ≠ x → r ≠ regF → t.reg r = s.reg r) :
    Completes i s t := by
  rw [← ht]
  refine .regs _ fun r hr => ?_
  by_cases hx : r = x
  · exact .inl (hx ▸ hi)
  · by_cases hF : r = regF
    · exact .inr (.inl ⟨hF, hflag⟩)
    · exact absurd (hreg r hx hF) hr

theorem Completes.setResultThenFlag {i : Instr} {x : Nibble} (hi : destReg i = some x) (hflag : flagWriter i = true)
    (s : State) (b : Byte) (c : Bool) : Completes i s (s.setResultThenFlag x b c) :=
  .of_reg_eq hi hflag rfl fun r hx hF => by simp [State.setResultThenFlag, hx, hF]

theorem Completes.shift {i : Instr} {x : Nibble} (hi : destReg i = some x) (hflag : flagWriter i = true)
    (s : State) (y : Nibble) (out : Byte → Bool) (f : Byte → Byte) :
    Completes i s ((s.shiftSource x y).shiftReg x out f) := by
  obtain h | h := s.shiftSource_cases x y <;> rw [h] <;>
    exact .of_reg_eq hi hflag rfl fun r hx hF => by simp [State.shiftReg, hx, hF]

theorem Completes.skipIf {i : Instr} (hi : transfersControl i = true) (s : State) (c : Bool) :
    Completes i s (s.skipIf c) := by
  rw [State.skipIf_eq]
  refine .pc _ hi ?_
  cases c
  · exact .inl rfl
  · exact .inr (.inl rfl)

theorem latchCoherent_raise_memoryBound (s : State) {a : Nat} (ha : a < 65536) :
    LatchCoherent (s.raise .memoryBound (boundInfo a)) := by
  change 0x1000 ≤ (boundInfo a).toNat ∧ (boundInfo a).toNat ≤ 0xFFFF
  rw [boundInfo_toNat ha]
  omega

theorem Completes.checkRange {i : Instr} (hi : mayRaise i .memoryBound = true) {s : State} {count : Nat}
    {body : State → State} (hbody : Completes i s (body s)) : Completes i s (s.checkRange s.base count body) := by
  obtain ⟨-, -, h⟩ | ⟨-, h⟩ := s.checkRange_cases s.base count body <;> rw [h]
  · exact .halt _ _ hi (latchCoherent_raise_memoryBound s s.index.isLt)
  · exact hbody

theorem wordInfo_encode_ret : wordInfo (encode .ret) = 0x00EE#17 := by decide

theorem offsetTarget_toNat (nnn : Addr12) (b : Byte) : (offsetTarget nnn b).toNat = nnn.toNat + b.toNat := by
  have := nnn.isLt
  have := b.isLt
  simp only [offsetTarget, BitVec.toNat_ofNat]
  omega

/-! ### Every instruction -/

theorem exec_completes (i : Instr) (s : State) : ∃ t, exec i s = .next t ∧ Completes i s t := by
  cases i with
  | cls => exact ⟨_, rfl, .clear rfl⟩
  | ret =>
    refine ⟨_, rfl, ?_⟩
    obtain ⟨-, h⟩ | ⟨v, older, hstack, h⟩ := s.pop_cases (encode .ret) fun v t => t.setPc v <;> rw [h]
    · exact .halt _ _ rfl wordInfo_encode_ret
    · exact .ret rfl v older hstack
  | call nnn =>
    refine ⟨_, rfl, ?_⟩
    obtain ⟨-, h⟩ | ⟨hroom, h⟩ :=
      s.push_cases (encode (.call nnn)) s.pc fun t => t.setPc (addrOperand nnn) <;> rw [h]
    · exact .halt _ _ rfl ⟨nnn, rfl⟩
    · exact .call nnn rfl hroom
  | jp nnn =>
    have := nnn.isLt
    exact ⟨_, rfl, .pc _ rfl (.inr (.inr (.inr (by rw [addrOperand_toNat]; omega))))⟩
  | jpV0 nnn =>
    have := nnn.isLt
    have := (s.reg 0#4).isLt
    exact ⟨_, rfl, .pc _ rfl (.inr (.inr (.inr (by rw [offsetTarget_toNat]; omega))))⟩
  | seImm | sneImm | seReg | sneReg | skp | sknp => exact ⟨_, rfl, .skipIf rfl s _⟩
  | ldImm | addImm | ldReg | orReg | andReg | xorReg | rnd | ldVxDt => exact ⟨_, rfl, .setReg rfl s _⟩
  | addReg | sub | subn => exact ⟨_, rfl, .setResultThenFlag rfl rfl s _ _⟩
  | shr | shl => exact ⟨_, rfl, .shift rfl rfl s _ _ _⟩
  | ldI nnn => exact ⟨_, rfl, .index _ (.inl ⟨nnn, rfl⟩)⟩
  | addI x => exact ⟨_, rfl, .index _ (.inr ⟨x, .inl rfl⟩)⟩
  | ldF x => exact ⟨_, rfl, .index _ (.inr ⟨x, .inr rfl⟩)⟩
  | drw x y n => exact ⟨_, rfl, .checkRange rfl (.draw x y n rfl _ _)⟩
  | ldB x => exact ⟨_, rfl, .checkRange rfl (.store x (.inl rfl) _ _)⟩
  | stRegs x => exact ⟨_, rfl, .checkRange rfl (.store x (.inr rfl) _ _)⟩
  | ldRegs x =>
    refine ⟨_, rfl, .checkRange rfl ?_⟩
    obtain ⟨w, hw⟩ := s.loadRegs_eq s.base x
    rw [hw]
    refine .regs w fun r hr => .inr (.inr ⟨x, rfl, ?_⟩)
    rw [← hw, State.reg_loadRegs] at hr
    exact Classical.byContradiction fun hle => hr (if_neg hle)
  | ldDtVx x => exact ⟨_, rfl, .dt x rfl⟩
  | ldStVx x => exact ⟨_, rfl, .st x rfl⟩
  | ldK x =>
    refine ⟨_, rfl, ?_⟩
    obtain ⟨-, h⟩ | ⟨k, -, h⟩ := s.waitKey_cases x <;> rw [h]
    · exact .pc _ rfl (.inr (.inr (.inl rfl)))
    · exact .setReg rfl s _

theorem completes_of_exec {i : Instr} {s t : State} (h : exec i s = .next t) : Completes i s t := by
  obtain ⟨t', ht', hc⟩ := exec_completes i s
  cases h.symm.trans ht'
  exact hc

/-! ### Halts and registers -/

/-- Settles O17: only the rule `halt` ends halted from a running state, and it is `raise`. -/
theorem haltsArePrecise : Obligations.HaltsArePrecise := by
  intro i s t h hrun hhalt
  cases completes_of_exec h with
  | halt c info hraise => exact ⟨hraise, rfl⟩
  | _ => simp [hrun] at hhalt

/-- Settles O18: a register changes under the rule for registers, which names its writers, or under a draw. -/
theorem registerWriters : Obligations.RegisterWriters := by
  intro i s t r h hr
  cases completes_of_exec h with
  | regs w hw => exact hw r hr
  | draw x y n hi f hit =>
    subst hi
    refine .inr (.inl ⟨?_, rfl⟩)
    by_contra hF
    exact hr (by simp [show r ≠ regF from hF])
  | _ => simp at hr

/-! ### The other elements -/

/-- The instructions that may change an element; of the registers, `MayWriteReg` says it one by one. -/
def MayWrite (i : Instr) : Part → Prop
  | .regs => True
  | .mem => ∃ x, i = .ldB x ∨ i = .stRegs x
  | .index => (∃ nnn, i = .ldI nnn) ∨ ∃ x, i = .addI x ∨ i = .ldF x
  | .pc => transfersControl i = true
  | .stack => i = .ret ∨ ∃ nnn, i = .call nnn
  | .fb => i = .cls ∨ ∃ x y n, i = .drw x y n
  | .dt => ∃ x, i = .ldDtVx x
  | .st => ∃ x, i = .ldStVx x
  | .latch => ∃ c, mayRaise i c = true

theorem withRegs_frame (s : State) (w : Vector Byte 16) : ChangesOnly [.regs] s { s with v := w } :=
  ⟨⟨rfl, rfl, rfl, rfl, rfl, rfl⟩, fun p hp => by cases p <;> simp_all [Keeps, State.byteAt]⟩

theorem State.setFb_setFlag_frame (s : State) (f : Framebuffer) (b : Bool) :
    ChangesOnly [.regs, .fb] s ((s.setFb f).setFlag b) :=
  ((s.setFb_frame f).mono (by simp)).trans (((s.setFb f).setFlag_frame b).mono (by simp))

/-- The frame of every instruction: the parts that its rule changes are among those it may write. -/
theorem Completes.frame {i : Instr} {s t : State} (h : Completes i s t) :
    ∃ parts, ChangesOnly parts s t ∧ ∀ p ∈ parts, MayWrite i p := by
  cases h with
  | halt c info hraise => exact ⟨_, s.raise_frame c info, by simpa [MayWrite] using ⟨c, hraise⟩⟩
  | regs w => exact ⟨_, withRegs_frame s w, by simp [MayWrite]⟩
  | index w hi => exact ⟨_, s.setIndex_frame w, by simpa [MayWrite] using hi⟩
  | pc w hi => exact ⟨_, s.setPc_frame w, by simpa [MayWrite] using hi⟩
  | call nnn hi => exact ⟨_, s.setStack_setPc_frame _ _, by simp [MayWrite, hi, transfersControl]⟩
  | ret hi v older => exact ⟨_, s.setStack_setPc_frame older v, by simp [MayWrite, hi, transfersControl]⟩
  | clear hi => exact ⟨_, s.setFb_frame _, by simp [MayWrite, hi]⟩
  | draw x y n hi f hit => exact ⟨_, s.setFb_setFlag_frame f hit, by simp [MayWrite, hi]⟩
  | dt x hi => exact ⟨_, s.setDt_frame _, by simp [MayWrite, hi]⟩
  | st x hi => exact ⟨_, s.setSt_frame _, by simp [MayWrite, hi]⟩
  | store x hi a bs => exact ⟨_, s.storeBytes_frame a bs, by simpa [MayWrite] using ⟨x, hi⟩⟩

theorem Completes.keeps {i : Instr} {s t : State} (h : Completes i s t) {p : Part} (hp : ¬ MayWrite i p) :
    Keeps s t p := by
  obtain ⟨parts, ⟨-, hkeeps⟩, hwrite⟩ := h.frame
  exact hkeeps p fun hmem => hp (hwrite p hmem)

theorem Completes.sameSurroundings {i : Instr} {s t : State} (h : Completes i s t) : SameSurroundings s t := by
  obtain ⟨parts, ⟨hsame, -⟩, -⟩ := h.frame
  exact hsame

/-- Settles O19: each clause excludes the writers of one element. -/
theorem elementWriters : Obligations.ElementWriters := by
  intro i s t h
  have hc := completes_of_exec h
  refine ⟨?fb, ?stack, ?index, ?dt, ?st, ?mem, ?pc, ?latch, hc.sameSurroundings⟩
  case fb => exact fun hcls hdrw => hc.keeps (p := .fb) (by simp [MayWrite, hcls, hdrw])
  case stack => exact fun hret hcall => hc.keeps (p := .stack) (by simp [MayWrite, hret, hcall])
  case index => exact fun hldI hx => hc.keeps (p := .index) (by simp [MayWrite, hldI, hx])
  case dt => exact fun hdt => hc.keeps (p := .dt) (by simp [MayWrite, hdt])
  case st => exact fun hst => hc.keeps (p := .st) (by simp [MayWrite, hst])
  case mem => exact fun hx => hc.keeps (p := .mem) (by simp [MayWrite, hx])
  case pc => exact fun hpc => hc.keeps (p := .pc) (by simp [MayWrite, hpc])
  case latch => exact fun hraise => hc.keeps (p := .latch) (by simp [MayWrite, hraise])

/-! ### Independence of the inputs -/

/-- The state in which the next instruction finds the inputs `j`. -/
def State.withInputs (s : State) (j : Inputs) : State := { s with inp := j }

theorem skipIf_withInputs (s : State) (j : Inputs) (c : Bool) :
    (s.withInputs j).skipIf c = (s.skipIf c).withInputs j := by
  cases c <;> rfl

theorem shift_withInputs (s : State) (j : Inputs) (x y : Nibble) (out : Byte → Bool) (f : Byte → Byte) :
    ((s.withInputs j).shiftSource x y).shiftReg x out f = ((s.shiftSource x y).shiftReg x out f).withInputs j := by
  have hsource : (s.withInputs j).shiftSource x y = (s.shiftSource x y).withInputs j :=
    (apply_ite (State.withInputs · j) (s.config.shiftUsesVy = true) (s.setReg x (s.reg y)) s).symm
  rw [hsource]
  rfl

theorem loadRegs_fold_withInputs (g : Nat → Byte) (l : List Nat) (s : State) (j : Inputs) :
    l.foldl (fun t k => t.setReg (BitVec.ofNat 4 k) (g k)) (s.withInputs j) =
      (l.foldl (fun t k => t.setReg (BitVec.ofNat 4 k) (g k)) s).withInputs j := by
  induction l generalizing s with
  | nil => rfl
  | cons k l ih => exact ih (s.setReg (BitVec.ofNat 4 k) (g k))

theorem checkRange_withInputs (s : State) (j : Inputs) (base count : Nat) {body : State → State}
    (hbody : body (s.withInputs j) = (body s).withInputs j) :
    (s.withInputs j).checkRange base count body = (s.checkRange base count body).withInputs j := by
  unfold State.checkRange
  split
  · rfl
  · exact hbody

theorem push_withInputs (s : State) (j : Inputs) (w v : Word) {rest : State → State}
    (hrest : ∀ t : State, rest (t.withInputs j) = (rest t).withInputs j) :
    (s.withInputs j).push w v rest = (s.push w v rest).withInputs j := by
  have hfull : (s.withInputs j).stackFull = s.stackFull := rfl
  unfold State.push
  rw [hfull]
  split
  · rfl
  · exact hrest (s.setStack (v :: s.stack))

theorem pop_withInputs (s : State) (j : Inputs) (w : Word) {rest : Word → State → State}
    (hrest : ∀ v (t : State), rest v (t.withInputs j) = (rest v t).withInputs j) :
    (s.withInputs j).pop w rest = (s.pop w rest).withInputs j := by
  cases h : s.stack with
  | nil => rw [State.pop_of_stack_eq_nil h, State.pop_of_stack_eq_nil (s := s.withInputs j) h]; rfl
  | cons v older =>
    rw [State.pop_of_stack_eq_cons h, State.pop_of_stack_eq_cons (s := s.withInputs j) h]
    exact hrest v (s.setStack older)

/-- Each of the instructions is an operation that does not look at the inputs. -/
theorem exec_withInputs {i : Instr} (hi : readsInput i = false) (s : State) (j : Inputs) :
    exec i (s.withInputs j) = thenNext (exec i s) (State.withInputs · j) := by
  cases i with
  | rnd | skp | sknp | ldK => simp [readsInput] at hi
  | ret => exact congrArg _ (pop_withInputs s j _ fun _ _ => rfl)
  | call nnn => exact congrArg _ (push_withInputs s j _ _ fun _ => rfl)
  | seImm | sneImm | seReg | sneReg => exact congrArg _ (skipIf_withInputs s j _)
  | shr | shl => exact congrArg _ (shift_withInputs s j _ _ _ _)
  | drw | ldB | stRegs => exact congrArg _ (checkRange_withInputs s j _ _ rfl)
  | ldRegs => exact congrArg _ (checkRange_withInputs s j _ _ (loadRegs_fold_withInputs _ _ s j))
  | _ => rfl

/-- Settles O20, as `exec_withInputs` says it. -/
theorem inputsReadByFourOnly : Obligations.InputsReadByFourOnly := by
  intro i s j hi
  exact exec_withInputs hi s j

end Sys2Proof.Machine
end

section
/-! The step of the whole block, case by case: reset held, halted, a failed fetch, an instruction, a rejected word
(spec/40_cycle.md). -/

namespace Sys2Proof.Machine

/-! ### The cases of a step -/

theorem step_of_rst {s : State} (h : s.inp.rst = true) : step s = .next s.holdReset.renewInputs := if_pos h

theorem step_of_not_rst {s : State} (h : s.inp.rst = false) :
    step s = thenNext (executorStep s.applyTicks) State.renewInputs := if_neg (by simp [h])

theorem executorStep_of_halted {s : State} (h : s.halted = true) : executorStep s = .next s := if_pos h

theorem fetch_of_pc_le {s : State} (h : s.pc.toNat ≤ 4094) : s.fetch = .ok (s.wordAt s.pc.toNat) := if_neg (by omega)

theorem fetch_of_pc_gt {s : State} (h : 4094 < s.pc.toNat) : s.fetch = .error s.pc.toNat := if_pos h

theorem executorStep_of_pc_gt {s : State} (hrun : s.halted = false) (hpc : 4094 < s.pc.toNat) :
    executorStep s = .next (s.raise .memoryBound (boundInfo s.pc.toNat)) := by
  simp [executorStep, hrun, fetch_of_pc_gt hpc]

theorem executorStep_of_pc_le {s : State} (hrun : s.halted = false) (hpc : s.pc.toNat ≤ 4094) :
    executorStep s = thenNext (execDecoded (decode (s.wordAt s.pc.toNat)) s.advance) State.present := by
  simp [executorStep, hrun, fetch_of_pc_le hpc]

theorem thenNext_thenNext (o : Host.Outcome State Fault Refusal) (f g : State → State) :
    thenNext (thenNext o f) g = thenNext o (g ∘ f) := by
  cases o <;> rfl

/-- The ticks change neither the memory nor `pc`, so they leave the fetched word. -/
theorem step_of_fetched {s : State} (hrst : s.inp.rst = false) (hrun : s.halted = false) (hpc : s.pc.toNat ≤ 4094) :
    step s = thenNext (execDecoded (decode (s.wordAt s.pc.toNat)) s.applyTicks.advance)
      (fun t => t.present.renewInputs) := by
  rw [step_of_not_rst hrst, executorStep_of_pc_le (s := s.applyTicks) hrun hpc, thenNext_thenNext]
  rfl

theorem step_of_pc_gt {s : State} (hrst : s.inp.rst = false) (hrun : s.halted = false) (hpc : 4094 < s.pc.toNat) :
    step s = .next (s.applyTicks.raise .memoryBound (boundInfo s.pc.toNat)).renewInputs := by
  rw [step_of_not_rst hrst, executorStep_of_pc_gt (s := s.applyTicks) hrun hpc]
  rfl

theorem step_of_halted {s : State} (hrst : s.inp.rst = false) (hhalt : s.halted = true) :
    step s = .next s.applyTicks.renewInputs := by
  rw [step_of_not_rst hrst, executorStep_of_halted (s := s.applyTicks) hhalt]
  rfl

theorem execDecoded_instr (i : Instr) (s : State) : execDecoded (.instr i) s = exec i s := rfl

theorem execDecoded_unrecognized (w : Word) (s : State) :
    execDecoded (.unrecognized w) s = .next (s.raise .decodeGap (wordInfo w)) := rfl

/-- Settles O6: the fetch tests `pc` alone, and a failed one is a halt entry. -/
theorem fetchReadsOrHalts : Obligations.FetchReadsOrHalts := by
  intro s
  exact ⟨fetch_of_pc_le, fun hrst hrun hpc => ⟨_, step_of_pc_gt hrst hrun hpc, rfl, by simp [State.applyTicks]⟩⟩

/-- Settles O7: the case of a fetched word that decodes. -/
theorem stepRunsDecoded : Obligations.StepRunsDecoded := by
  intro s w i hrst hrun hpc hw hdec
  subst hw
  have hword : decode (s.wordAt s.pc.toNat) = .instr i := hdec
  rw [step_of_fetched hrst hrun hpc, hword, execDecoded_instr]
  rfl

theorem present_of_halted {s : State} (h : s.halted = true) : s.present = s := if_pos h

/-- Settles O8: the case of a fetched word that is rejected, which is reported as it is. -/
theorem unrecognizedHalts : Obligations.UnrecognizedHalts := by
  intro s w hrst hrun hpc hw hdec
  subst hw
  have hword := decode_unrecognized_of_forall_ne (w := s.wordAt s.pc.toNat) hdec
  rw [step_of_fetched hrst hrun hpc, hword, execDecoded_unrecognized, thenNext_next, present_of_halted rfl]
  rfl

theorem renewInputs_keeps (s : State) (p : Part) : Keeps s s.renewInputs p := by
  cases p <;> simp [Keeps]

theorem ticks_keeps (s : State) (k m : Nat) {p : Part} (hdt : p ≠ .dt) (hst : p ≠ .st) : Keeps s (s.ticks k m) p := by
  cases p <;> simp_all [Keeps]

/-- Settles O9: a halted step is the ticks and the next inputs. -/
theorem haltedStepOnlyTicks : Obligations.HaltedStepOnlyTicks := by
  intro s hrst hhalt
  refine ⟨_, step_of_halted hrst hhalt, fun p hp => ?_, ?_, ?_, ?_, ?_⟩
  · simp only [List.mem_cons, List.not_mem_nil, or_false, not_or] at hp
    exact (ticks_keeps s _ _ hp.1 hp.2).trans (renewInputs_keeps _ p)
  · simp [State.applyTicks]
  · simp [State.applyTicks, countDown_toNat]
  · simp [State.applyTicks, countDown_toNat]
  · simp [State.applyTicks, liveTicks_eq]

/-! ### What a step can be -/

/-- What one step can be: reset held, a halted step, a halt entry by the fetch or by a rejected word, or an instruction
run on the ticked and advanced state. -/
inductive StepTo (s : State) : State → Prop
  | reset (hrst : s.inp.rst = true) : StepTo s s.holdReset.renewInputs
  | halted (hhalt : s.halted = true) : StepTo s s.applyTicks.renewInputs
  | fetchFails (hrun : s.halted = false) (hpc : 4094 < s.pc.toNat) :
      StepTo s (s.applyTicks.raise .memoryBound (boundInfo s.pc.toNat)).renewInputs
  | rejects (hrun : s.halted = false) (hpc : s.pc.toNat ≤ 4094) (w : Word) (hw : decode w = .unrecognized w) :
      StepTo s (s.applyTicks.advance.raise .decodeGap (wordInfo w)).renewInputs
  | runs (hrun : s.halted = false) (hpc : s.pc.toNat ≤ 4094) (i : Instr) (t : State)
      (ht : Completes i s.applyTicks.advance t) : StepTo s t.present.renewInputs

theorem step_cases (s : State) : ∃ t, step s = .next t ∧ StepTo s t := by
  cases hrst : s.inp.rst with
  | true => exact ⟨_, step_of_rst hrst, .reset hrst⟩
  | false =>
    cases hrun : s.halted with
    | true => exact ⟨_, step_of_halted hrst hrun, .halted hrun⟩
    | false =>
      obtain hpc | hpc := Nat.lt_or_ge 4094 s.pc.toNat
      · exact ⟨_, step_of_pc_gt hrst hrun hpc, .fetchFails hrun hpc⟩
      · rw [step_of_fetched hrst hrun hpc]
        obtain ⟨i, hi, -⟩ | hu := decode_reads (s.wordAt s.pc.toNat)
        · obtain ⟨t, ht, hc⟩ := exec_completes i s.applyTicks.advance
          rw [hi, execDecoded_instr, ht]
          exact ⟨_, rfl, .runs hrun hpc i t hc⟩
        · rw [hu, execDecoded_unrecognized, thenNext_next, present_of_halted rfl]
          exact ⟨_, rfl, .rejects hrun hpc _ hu⟩

theorem stepTo_of_step {s t : State} (h : step s = .next t) : StepTo s t := by
  obtain ⟨t', ht', hc⟩ := step_cases s
  cases h.symm.trans ht'
  exact hc

/-- Settles O10: the cases of `exec` and of `step` are exhaustive. -/
theorem nothingStopsTheModel : Obligations.NothingStopsTheModel := by
  constructor
  · intro i s
    obtain ⟨t, ht, -⟩ := exec_completes i s
    exact ⟨t, ht⟩
  · intro s
    obtain ⟨t, ht, -⟩ := step_cases s
    exact ⟨t, ht⟩

/-- Settles O16: no agent writes the parameters, and an instruction keeps its surroundings. -/
theorem parametersNeverChange : Obligations.ParametersNeverChange := by
  intro s t h
  cases stepTo_of_step h with
  | runs hrun hpc i u hu =>
    obtain ⟨hconfig, -⟩ := hu.sameSurroundings
    rw [State.renewInputs_config, State.present_config, hconfig]
    rfl
  | _ => simp [State.applyTicks]

/-! ### The invariant -/

theorem stackBounded_of_stack_eq_nil {s : State} (h : s.stack = []) : StackBounded s := by
  simp [StackBounded, h]

/-- Settles O14: each part of the invariant on the values of reset. -/
theorem invAtReset : Obligations.InvAtReset :=
  ⟨reset_mem_wf, stackBounded_of_stack_eq_nil rfl, show 0x0200 ≤ 0x10FE by decide, rfl, rfl⟩

/-- The invariant looks at no other field than these. -/
theorem MachineInv.of_fields {s t : State} (h : MachineInv s) (hmem : t.mem = s.mem) (hconfig : t.config = s.config)
    (hstack : t.stack = s.stack) (hpc : t.pc = s.pc) (hhalted : t.halted = s.halted) (hcause : t.hcause = s.hcause)
    (hinfo : t.hinfo = s.hinfo) : MachineInv t := by
  simpa [MachineInv, StackBounded, PcBounded, LatchCoherent, hmem, hconfig, hstack, hpc, hhalted, hcause, hinfo]
    using h

theorem MachineInv.applyTicks {s : State} (h : MachineInv s) : MachineInv s.applyTicks :=
  h.of_fields rfl rfl rfl rfl rfl rfl rfl

theorem MachineInv.renewInputs {s : State} (h : MachineInv s) : MachineInv s.renewInputs :=
  h.of_fields (by simp) (by simp) (by simp) (by simp) (by simp) (by simp) (by simp)

theorem MachineInv.present {s : State} (h : MachineInv s) : MachineInv s.present :=
  h.of_fields (by simp) (by simp) (by simp) (by simp) (by simp) (by simp) (by simp)

theorem MachineInv.holdReset {s : State} (h : MachineInv s) : MachineInv s.holdReset := by
  obtain ⟨hmem, -⟩ := h
  exact ⟨wf_loadPort hmem _, stackBounded_of_stack_eq_nil rfl, show 0x0200 ≤ 0x10FE by decide, rfl, rfl⟩

/-- A halt entry keeps the invariant if its cause carries the right information. -/
theorem MachineInv.raise {s : State} (h : MachineInv s) {c : HaltCause} {info : HaltInfo}
    (hlatch : LatchCoherent (s.raise c info)) : MachineInv (s.raise c info) := by
  obtain ⟨hmem, hstack, hpc, -⟩ := h
  exact ⟨hmem, hstack, hpc, hlatch⟩

theorem latchCoherent_raise_decodeGap (s : State) {w : Word} (hw : decode w = .unrecognized w) :
    LatchCoherent (s.raise .decodeGap (wordInfo w)) :=
  ⟨w, hw, rfl⟩

theorem MachineInv.advance {s : State} (h : MachineInv s) (hpc : s.pc.toNat ≤ 4094) : MachineInv s.advance := by
  obtain ⟨hmem, hstack, -, hlatch⟩ := h
  refine ⟨hmem, hstack, ?_, hlatch⟩
  change (s.pc + 2#16).toNat ≤ 0x10FE
  bv_omega

/-- Room for one more entry, in terms of the parameter (R28, R30). -/
theorem State.stackFull_eq_false_iff (s : State) :
    s.stackFull = false ↔ ∀ d, s.config.stackDepth = some d → s.stack.length < d := by
  unfold State.stackFull
  cases s.config.stackDepth <;> simp

theorem Completes.mem_wf {i : Instr} {s t : State} (h : Completes i s t) (hmem : s.mem.wf = true) :
    t.mem.wf = true := by
  cases h with
  | store x hi a bs => exact Memory.wf_writeBytes hmem a bs
  | _ => exact hmem

/-- A pushed entry is an advanced `pc`; every other one was there before. -/
theorem Completes.stackBounded {i : Instr} {s t : State} (h : Completes i s t) (hstack : StackBounded s)
    (hpc : s.pc.toNat ≤ 4096) : StackBounded t := by
  obtain ⟨hdepth, hentries⟩ := id hstack
  cases h with
  | call nnn hi hroom =>
    refine ⟨fun d hd => s.stackFull_eq_false_iff.mp hroom d hd, fun v hv => ?_⟩
    obtain rfl | hv := List.mem_cons.mp hv
    · exact hpc
    · exact hentries v hv
  | ret hi v older hpop =>
    rw [hpop] at hdepth hentries
    exact ⟨fun d hd => Nat.le_of_succ_le (hdepth d hd), fun u hu => hentries u (List.mem_cons_of_mem v hu)⟩
  | _ => exact hstack

/-- From an advanced `pc` every target is at most 0x10FE, that of `JP V0`: `0xFFF + 0xFF` (R26). -/
theorem Completes.pcBounded {i : Instr} {s t : State} (h : Completes i s t) (hstack : StackBounded s)
    (hpc : 2 ≤ s.pc.toNat ∧ s.pc.toNat ≤ 4096) : PcBounded t := by
  cases h with
  | pc w hi hw =>
    change w.toNat ≤ 0x10FE
    obtain rfl | rfl | rfl | hw := hw
    · omega
    · bv_omega
    · bv_omega
    · exact hw
  | call nnn =>
    change (addrOperand nnn).toNat ≤ 0x10FE
    have := nnn.isLt
    rw [addrOperand_toNat]
    omega
  | ret hi v older hpop =>
    obtain ⟨-, hentries⟩ := hstack
    exact Nat.le_trans (hentries v (hpop ▸ List.mem_cons_self)) (by decide)
  | _ => exact Nat.le_trans hpc.2 (by decide)

theorem Completes.latchCoherent {i : Instr} {s t : State} (h : Completes i s t) (hlatch : LatchCoherent s) :
    LatchCoherent t := by
  cases h with
  | halt c info hraise hinfo => exact hinfo
  | _ => exact hlatch

theorem Completes.machineInv {i : Instr} {s t : State} (h : Completes i s t) (hinv : MachineInv s)
    (hpc : 2 ≤ s.pc.toNat ∧ s.pc.toNat ≤ 4096) : MachineInv t := by
  obtain ⟨hmem, hstack, -, hlatch⟩ := hinv
  exact ⟨h.mem_wf hmem, h.stackBounded hstack hpc.2, h.pcBounded hstack hpc, h.latchCoherent hlatch⟩

/-- Settles O15: every agent keeps the invariant, and so does every instruction from an advanced `pc`. -/
theorem invKeptByStep : Obligations.InvKeptByStep := by
  intro s t hinv h
  cases stepTo_of_step h with
  | reset => exact hinv.holdReset.renewInputs
  | halted => exact hinv.applyTicks.renewInputs
  | fetchFails => exact (hinv.applyTicks.raise (latchCoherent_raise_memoryBound _ s.pc.isLt)).renewInputs
  | rejects hrun hpc w hw =>
    exact ((hinv.applyTicks.advance hpc).raise (latchCoherent_raise_decodeGap _ hw)).renewInputs
  | runs hrun hpc i u hu =>
    have hadv : 2 ≤ (s.pc + 2#16).toNat ∧ (s.pc + 2#16).toNat ≤ 4096 := by bv_omega
    exact (hu.machineInv (hinv.applyTicks.advance hpc) hadv).present.renewInputs

/-! ### Halt entry -/

/-- Settles O54: halt entry writes the three fields of the latch; the codes are those of the definition. -/
theorem haltEntrySetsLatch : Obligations.HaltEntrySetsLatch :=
  ⟨fun s c info => ⟨rfl, rfl, rfl, s.raise_frame c info⟩, rfl, rfl, rfl, rfl, rfl, rfl⟩

end Sys2Proof.Machine
end

section
/-! Reset, the memory load port and the boot (spec/70_reset_and_hazards.md, spec/10_state.md section 10). -/

namespace Sys2Proof.Machine

/-! ### The values of reset -/

theorem reset_reg (r : Nibble) : State.reset.reg r = 0#8 := by
  simp [State.reg, State.reset]

theorem pixel_zero (x y : Nat) : pixel 0#2048 x y = false := BitVec.getLsbD_zero

theorem unlisted_of_not_font {a : Nat} (h : a < 0x50 ∨ 0x9F < a) : Memory.unlisted a = 0#8 := if_neg (by omega)

/-- Settles O12: the fields of `State.reset`, and the 80 bytes of the font one by one. -/
theorem resetValues : Obligations.ResetValues :=
  ⟨rfl, rfl, fun x y _ _ => pixel_zero x y, reset_reg, rfl, rfl, rfl, rfl, rfl, rfl, fun _ => unlisted_of_not_font, rfl⟩

/-! ### The load port -/

theorem read_loadPort_of_forall_ne {m : Memory} (h : m.wf = true) {ws : List (Addr12 × Byte)} {a : Nat}
    (hne : ∀ c ∈ ws, c.1.toNat ≠ a) : (loadPort m ws).read a = m.read a := by
  induction ws generalizing m with
  | nil => rfl
  | cons c ws ih =>
    have hc : a ≠ c.1.toNat := (hne c List.mem_cons_self).symm
    calc (loadPort m (c :: ws)).read a
        = (m.write c.1.toNat c.2).read a :=
          ih (Memory.wf_write h _ _) fun d hd => hne d (List.mem_cons_of_mem c hd)
      _ = m.read a := by rw [Memory.read_write h, if_neg fun e => hc e.1]

/-- The last write of the load port to an address stands. -/
theorem read_loadPort_last {m : Memory} (h : m.wf = true) (before : List (Addr12 × Byte)) {a : Addr12} (b : Byte)
    {after : List (Addr12 × Byte)} (hlast : ∀ c ∈ after, c.1 ≠ a) :
    (loadPort m (before ++ (a, b) :: after)).read a.toNat = b := by
  have ha : a.toNat ≤ 4095 := by have := a.isLt; omega
  have hbefore := wf_loadPort h before
  calc (loadPort m (before ++ (a, b) :: after)).read a.toNat
      = (loadPort ((loadPort m before).write a.toNat b) after).read a.toNat := by
        simp only [loadPort, List.foldl_append, List.foldl_cons]
    _ = ((loadPort m before).write a.toNat b).read a.toNat :=
        read_loadPort_of_forall_ne (Memory.wf_write hbefore _ _) fun c hc e =>
          hlast c hc (BitVec.eq_of_toNat_eq e)
    _ = b := by rw [Memory.read_write hbefore, if_pos ⟨rfl, ha⟩]

/-- Settles O11: the step is `holdReset`, whose registers are those of reset and whose memory is the load port's. -/
theorem resetHeld : Obligations.ResetHeld := by
  intro s hwf hrst
  refine ⟨_, step_of_rst hrst, ?pc, ?stack, ?fb, ?regs, ?index, ?dt, ?st, ?halted, ?hcause, ?hinfo, ?unwritten,
    ?written⟩
  case regs => exact fun r => (State.renewInputs_reg _ r).trans (reset_reg r)
  case unwritten => exact fun a ha => (State.renewInputs_byteAt _ a).trans (read_loadPort_of_forall_ne hwf ha)
  case written =>
    intro before a b after hload hlast
    rw [State.renewInputs_byteAt, State.byteAt, State.holdReset_mem, hload]
    exact read_loadPort_last hwf before b hlast
  all_goals simp [State.reset]

/-! ### Boot -/

theorem renewInputs_inp (s : State) : s.renewInputs.inp = s.script.headD (freeInputs s.inputCount) := by
  unfold State.renewInputs
  cases s.script <;> rfl

theorem boot_of_not_fits (c : Config) (font : List Byte) {image : List Byte} (script : List Inputs)
    (h : 4096 - 0x200 < image.length) : State.boot c font image script = .fault .loadFailure :=
  if_neg (by simpa [imageFits] using h)

theorem boot_of_fits (c : Config) (font : List Byte) {image : List Byte} (script : List Inputs)
    (h : image.length ≤ 4096 - 0x200) : State.boot c font image script =
      .next ({ State.reset with mem := bootMemory font image, config := c, script := script } : State).renewInputs :=
  if_pos (by simpa [imageFits] using h)

/-- The memory of the boot: the image over the font over the power-on contents. -/
theorem read_bootMemory {font image : List Byte} (hfont : fontWhole font = true) (himage : image.length ≤ 4096 - 0x200)
    (a : Nat) : (bootMemory font image).read a =
      if 0x200 ≤ a ∧ a < 0x200 + image.length then image.getD (a - 0x200) 0#8
      else if 0x50 ≤ a ∧ a ≤ 0x9F then font.getD (a - 0x50) 0#8 else 0#8 := by
  have hlen : font.length = 80 := by simpa [fontWhole] using hfont
  have hempty : Memory.wf [] = true := rfl
  rw [bootMemory, Memory.read_writeBytes (Memory.wf_writeBytes hempty _ _), Memory.read_writeBytes hempty,
    List.take_of_length_le (by omega), hlen]
  by_cases himg : 0x200 ≤ a ∧ a < 0x200 + image.length
  · rw [if_pos (by omega), if_pos himg]
  · rw [if_neg (by omega), if_neg himg]
    by_cases hfnt : 0x50 ≤ a ∧ a ≤ 0x9F
    · rw [if_pos (by omega), if_pos hfnt]
    · rw [if_neg (by omega), if_neg hfnt]
      exact unlisted_of_not_font (by omega)

/-- Settles O13: by whether the image fits; the memory is that of `read_bootMemory`, the rest that of reset. -/
theorem bootLoadsImage : Obligations.BootLoadsImage := by
  intro c font image script
  refine ⟨boot_of_not_fits c font script, fun himage hfont => ⟨_, boot_of_fits c font script himage, ?_⟩⟩
  have hmem := read_bootMemory hfont himage
  refine ⟨?pc, ?config, ?stack, ?regs, ?index, ?dt, ?st, ?fb, ?halted, ?hcause, ?hinfo, renewInputs_inp _, ?image,
    ?font, ?zeros⟩
  case regs => exact fun r => (State.renewInputs_reg _ r).trans (reset_reg r)
  case image =>
    intro j hj
    rw [State.renewInputs_byteAt, State.byteAt, hmem, if_pos (by omega), Nat.add_sub_cancel_left]
  case font =>
    intro j hj
    rw [State.renewInputs_byteAt, State.byteAt, hmem, if_neg (by omega), if_pos (by omega), Nat.add_sub_cancel_left]
  case zeros =>
    intro a ha
    rw [State.renewInputs_byteAt, State.byteAt, hmem, if_neg (by omega), if_neg (by omega)]
  all_goals simp [State.reset]

end Sys2Proof.Machine
end

section
/-! The jump with offset and `CALL`: the target, the pushed address, the full stack, and calls that return
(spec/41_control_flow.md, spec/10_state.md section 6). -/

namespace Sys2Proof.Machine

theorem exec_jpV0 (nnn : Addr12) (s : State) :
    exec (.jpV0 nnn) s = .next (s.setPc (offsetTarget nnn (s.reg 0x0#4))) := rfl

/-- Settles O23: one write of `pc`, and 16 bits hold the sum. -/
theorem jumpWithOffset : Obligations.JumpWithOffset := by
  intro nnn s
  exact ⟨_, exec_jpV0 nnn s, offsetTarget_toNat nnn _, s.setPc_frame _⟩

/-! ### CALL -/

theorem exec_call (nnn : Addr12) (s : State) :
    exec (.call nnn) s = .next (s.push (encode (.call nnn)) s.pc fun t => t.setPc (addrOperand nnn)) := rfl

theorem exec_call_of_room (nnn : Addr12) {s : State} (h : ∀ d, s.config.stackDepth = some d → s.stack.length < d) :
    exec (.call nnn) s = .next ((s.setStack (s.pc :: s.stack)).setPc (addrOperand nnn)) := by
  rw [exec_call, State.push, if_neg (by simpa using s.stackFull_eq_false_iff.mpr h)]

theorem exec_call_of_full (nnn : Addr12) {s : State} {d : Nat} (hdepth : s.config.stackDepth = some d)
    (hfull : d ≤ s.stack.length) :
    exec (.call nnn) s = .next (s.raise .stackOverflow (wordInfo (encode (.call nnn)))) := by
  rw [exec_call, State.push, if_pos (by simpa [State.stackFull, hdepth] using hfull)]

/-- Settles O24: the push has room, so its body runs. -/
theorem callPushesAndJumps : Obligations.CallPushesAndJumps := by
  intro nnn s hroom
  exact ⟨_, exec_call_of_room nnn hroom, rfl, addrOperand_toNat nnn, s.setStack_setPc_frame _ _⟩

theorem wordNNN_toNat (op : Nibble) (nnn : Addr12) : (wordNNN op nnn).toNat = op.toNat * 4096 + nnn.toNat := by
  rw [wordNNN, BitVec.toNat_append, ← Nat.shiftLeft_add_eq_or_of_lt nnn.isLt, Nat.shiftLeft_eq]

theorem wordInfo_toNat (w : Word) : (wordInfo w).toNat = w.toNat := BitVec.toNat_setWidth_of_le (by decide)

/-- Settles O25: the push raises, and the word of `CALL nnn` is 0x2NNN. -/
theorem callOverflowHalts : Obligations.CallOverflowHalts := by
  intro nnn s d hdepth hfull
  exact ⟨_, exec_call_of_full nnn hdepth hfull, rfl, rfl, (wordInfo_toNat _).trans (wordNNN_toNat 0x2#4 nnn),
    s.raise_frame _ _⟩

/-! ### Calls that return -/

theorem callAll_cons {s t : State} {nnn : Addr12} (h : exec (.call nnn) s = .next t) (rest : List Addr12) :
    callAll (nnn :: rest) s = callAll rest t := by
  rw [callAll, h]

/-- One more return after `k` returns. -/
theorem retAll_succ_last {k : Nat} {s r : State} (h : retAll k s = .next r) : retAll (k + 1) s = exec .ret r := by
  induction k generalizing s with
  | zero =>
    cases h
    rw [retAll]
    cases exec .ret r <;> rfl
  | succ k ih =>
    rw [retAll] at h ⊢
    cases hret : exec .ret s with
    | next t => rw [hret] at h; exact ih h
    | fault | refused => rw [hret] at h; cases h

/-- The returns take back what the calls pushed, in reverse order. -/
theorem retAll_of_callAll {targets : List Addr12} {s : State}
    (hroom : ∀ d, s.config.stackDepth = some d → s.stack.length + targets.length ≤ d) :
    ∃ t, callAll targets s = .next t ∧ t.stack.length = s.stack.length + targets.length ∧
      ∀ u : State, u.stack = t.stack → ∃ r, retAll targets.length u = .next r ∧ r.stack = s.stack ∧
        (targets ≠ [] → r.pc = s.pc) := by
  induction targets generalizing s with
  | nil => exact ⟨s, rfl, rfl, fun u hu => ⟨u, rfl, hu, fun h => absurd rfl h⟩⟩
  | cons nnn rest ih =>
    rw [List.length_cons] at hroom ⊢
    have hcall := exec_call_of_room nnn (s := s) fun d hd => by have := hroom d hd; omega
    obtain ⟨t, hcalls, hlen, hback⟩ := ih (s := (s.setStack (s.pc :: s.stack)).setPc (addrOperand nnn)) fun d hd => by
      have := hroom d hd
      simp only [State.setPc_stack, State.setStack_stack, List.length_cons]
      omega
    simp only [State.setPc_stack, State.setStack_stack, List.length_cons] at hlen hback
    refine ⟨t, (callAll_cons hcall rest).trans hcalls, by omega, fun u hu => ?_⟩
    obtain ⟨r, hrets, hstack, -⟩ := hback u hu
    exact ⟨_, (retAll_succ_last hrets).trans (exec_ret_of_stack_eq_cons hstack), rfl, fun _ => rfl⟩

/-- Settles O27: the calls and returns by induction on the targets; a further `RET` finds the empty stack. -/
theorem nestedCallsReturn : Obligations.NestedCallsReturn := by
  intro targets s hroom
  obtain ⟨t, hcalls, hlen, hback⟩ := retAll_of_callAll hroom
  refine ⟨t, hcalls, hlen, fun u hu => ?_⟩
  obtain ⟨r, hrets, hstack, hpc⟩ := hback u hu
  exact ⟨r, hrets, hstack, hpc, fun hempty => ⟨_, exec_ret_of_stack_eq_nil (hstack.trans hempty), rfl, rfl⟩⟩

end Sys2Proof.Machine
end

section
/-! Arithmetic, logic, shifts and the random byte: the registers after each, and the register file as the one element
that changes (spec/42_alu.md). -/

namespace Sys2Proof.Machine

/-! ### Bytes -/

theorem byte_add (a b : Byte) : a + b = BitVec.ofNat 8 ((a.toNat + b.toNat) % 256) := by
  apply BitVec.eq_of_toNat_eq
  simp

theorem byte_sub (a b : Byte) : a - b = BitVec.ofInt 8 ((a.toNat : Int) - b.toNat) := by
  apply BitVec.eq_of_toNat_eq
  rw [BitVec.toNat_sub, BitVec.toNat_ofInt]
  omega

theorem byte_shiftRight_one (v : Byte) : v >>> 1 = BitVec.ofNat 8 (v.toNat / 2) := by
  apply BitVec.eq_of_toNat_eq
  have := v.isLt
  simp only [BitVec.toNat_ushiftRight, Nat.shiftRight_eq_div_pow, BitVec.toNat_ofNat]
  omega

theorem byte_shiftLeft_one (v : Byte) : v <<< 1 = BitVec.ofNat 8 (v.toNat * 2 % 256) := by
  apply BitVec.eq_of_toNat_eq
  simp [Nat.shiftLeft_eq]

theorem flagByte_carryFlag (a b : Byte) : flagByte (carryFlag a b) = if 255 < a.toNat + b.toNat then 1#8 else 0#8 := by
  simp [flagByte, carryFlag]

theorem flagByte_notBorrowFlag (a b : Byte) :
    flagByte (notBorrowFlag a b) = if a.toNat ≥ b.toNat then 1#8 else 0#8 := by
  simp [flagByte, notBorrowFlag]

theorem flagByte_decide {P : Prop} [Decidable P] {k : Nat} (h : P ↔ k = 1) (hk : k < 2) :
    flagByte (decide P) = BitVec.ofNat 8 k := by
  by_cases hP : P
  · rw [h.mp hP]
    simp [flagByte, hP]
  · have h0 : k = 0 := by have := mt h.mpr hP; omega
    rw [h0]
    simp [flagByte, hP]

theorem shiftedOutLow_eq (v : Byte) : shiftedOutLow v = decide (v.toNat % 2 = 1) :=
  Nat.testBit_zero v.toNat

theorem shiftedOutHigh_eq (v : Byte) : shiftedOutHigh v = decide (128 ≤ v.toNat) :=
  (BitVec.msb_eq_getLsbD_last v).symm.trans (BitVec.msb_eq_decide v)

theorem flagByte_shiftedOutLow (v : Byte) : flagByte (shiftedOutLow v) = BitVec.ofNat 8 (v.toNat % 2) := by
  rw [shiftedOutLow_eq]
  exact flagByte_decide Iff.rfl (Nat.mod_lt _ (by decide))

theorem flagByte_shiftedOutHigh (v : Byte) : flagByte (shiftedOutHigh v) = BitVec.ofNat 8 (v.toNat / 128) := by
  have := v.isLt
  rw [shiftedOutHigh_eq]
  exact flagByte_decide (by omega) (by omega)

theorem flagByte_shiftedOutHigh_shiftLeft_one (v : Byte) :
    flagByte (shiftedOutHigh v) <<< 1 = BitVec.ofNat 8 (v.toNat / 128 * 2) := by
  have := v.isLt
  rw [flagByte_shiftedOutHigh, byte_shiftLeft_one, BitVec.toNat_ofNat]
  congr 1
  omega

theorem flagByte_shiftRight_one (b : Bool) : flagByte b >>> 1 = 0#8 := by cases b <;> rfl

/-! ### Operations that write a result and a flag -/

theorem State.reg_setResultThenFlag (s : State) (x : Nibble) (b : Byte) (c : Bool) (r : Nibble) :
    (s.setResultThenFlag x b c).reg r = if r = 0xF#4 then flagByte c else if r = x then b else s.reg r := by
  simp [State.setResultThenFlag, regF]

theorem State.setResultThenFlag_frame (s : State) (x : Nibble) (b : Byte) (c : Bool) :
    ChangesOnly [.regs] s (s.setResultThenFlag x b c) :=
  (s.setReg_frame x b).trans ((s.setReg x b).setFlag_frame c)

theorem State.reg_shiftSource (s : State) (x y r : Nibble) :
    (s.shiftSource x y).reg r = if r = x then (if s.config.shiftUsesVy then s.reg y else s.reg x) else s.reg r := by
  unfold State.shiftSource
  by_cases hr : r = x <;> split <;> simp [hr]

theorem State.shiftSource_frame (s : State) (x y : Nibble) : ChangesOnly [.regs] s (s.shiftSource x y) := by
  obtain h | h := s.shiftSource_cases x y <;> rw [h]
  · exact .refl _ s
  · exact s.setReg_frame x _

/-- With x = F the flag is what is read again and shifted (R143; the spec's D16). -/
theorem State.reg_shiftReg (s : State) (x : Nibble) (out : Byte → Bool) (f : Byte → Byte) (r : Nibble) :
    (s.shiftReg x out f).reg r =
      if r = x then (if x = 0xF#4 then f (flagByte (out (s.reg x))) else f (s.reg x))
      else if r = 0xF#4 then flagByte (out (s.reg x)) else s.reg r := by
  have hshift : s.shiftReg x out f =
      (s.setFlag (out (s.reg x))).setReg x (f ((s.setFlag (out (s.reg x))).reg x)) := rfl
  rw [hshift, State.reg_setReg, State.reg_setFlag, State.reg_setFlag, apply_ite f]
  rfl

theorem State.shiftReg_frame (s : State) (x : Nibble) (out : Byte → Bool) (f : Byte → Byte) :
    ChangesOnly [.regs] s (s.shiftReg x out f) :=
  (s.setFlag_frame _).trans ((s.setFlag _).setReg_frame x _)

theorem State.reg_shift (s : State) (x y : Nibble) {v : Byte}
    (hv : v = if s.config.shiftUsesVy then s.reg y else s.reg x) (out : Byte → Bool) (f : Byte → Byte) (r : Nibble) :
    ((s.shiftSource x y).shiftReg x out f).reg r =
      if r = x then (if x = 0xF#4 then f (flagByte (out v)) else f v)
      else if r = 0xF#4 then flagByte (out v) else s.reg r := by
  have hx : (s.shiftSource x y).reg x = v := by rw [State.reg_shiftSource, if_pos rfl, hv]
  rw [State.reg_shiftReg, hx]
  by_cases hr : r = x
  · simp only [if_pos hr]
  · rw [State.reg_shiftSource, if_neg hr, if_neg hr, if_neg hr]

/-! ### The instructions -/

theorem exec_addImm (x : Nibble) (nn : Byte) (s : State) :
    exec (.addImm x nn) s = .next (s.setReg x (s.reg x + nn)) := rfl

theorem exec_ldReg (x y : Nibble) (s : State) : exec (.ldReg x y) s = .next (s.setReg x (s.reg y)) := rfl

theorem exec_orReg (x y : Nibble) (s : State) :
    exec (.orReg x y) s = .next (s.setReg x (s.reg x ||| s.reg y)) := rfl

theorem exec_andReg (x y : Nibble) (s : State) :
    exec (.andReg x y) s = .next (s.setReg x (s.reg x &&& s.reg y)) := rfl

theorem exec_xorReg (x y : Nibble) (s : State) :
    exec (.xorReg x y) s = .next (s.setReg x (s.reg x ^^^ s.reg y)) := rfl

theorem exec_rnd (x : Nibble) (nn : Byte) (s : State) :
    exec (.rnd x nn) s = .next (s.setReg x (s.inp.rnd &&& nn)) := rfl

theorem exec_addReg (x y : Nibble) (s : State) : exec (.addReg x y) s =
    .next (s.setResultThenFlag x (s.reg x + s.reg y) (carryFlag (s.reg x) (s.reg y))) := rfl

theorem exec_sub (x y : Nibble) (s : State) : exec (.sub x y) s =
    .next (s.setResultThenFlag x (s.reg x - s.reg y) (notBorrowFlag (s.reg x) (s.reg y))) := rfl

theorem exec_subn (x y : Nibble) (s : State) : exec (.subn x y) s =
    .next (s.setResultThenFlag x (s.reg y - s.reg x) (notBorrowFlag (s.reg y) (s.reg x))) := rfl

theorem exec_shr (x y : Nibble) (s : State) : exec (.shr x y) s =
    .next ((s.shiftSource x y).shiftReg x shiftedOutLow fun v => v >>> 1) := rfl

theorem exec_shl (x y : Nibble) (s : State) : exec (.shl x y) s =
    .next ((s.shiftSource x y).shiftReg x shiftedOutHigh fun v => v <<< 1) := rfl

theorem State.reg_setReg_same (s : State) (x : Nibble) (b : Byte) : (s.setReg x b).reg x = b := by simp

theorem State.reg_setReg_of_ne (s : State) {x r : Nibble} (h : r ≠ x) (b : Byte) :
    (s.setReg x b).reg r = s.reg r := by simp [h]

/-- Settles O29: one register write of a sum of bytes. -/
theorem addImmediateWraps : Obligations.AddImmediateWraps := by
  intro x nn s
  exact ⟨_, exec_addImm x nn s, fun r => by rw [State.reg_setReg, byte_add], s.setReg_frame x _⟩

/-- Settles O30: four register writes, of a copy and of three bitwise operations. -/
theorem copyAndLogic : Obligations.CopyAndLogic := by
  intro x y s
  refine ⟨?copy, ?or, ?and, ?xor⟩
  case copy => exact ⟨_, exec_ldReg x y s, fun r => s.reg_setReg x r _, s.setReg_frame x _⟩
  case or =>
    exact ⟨_, exec_orReg x y s, fun r hr => s.reg_setReg_of_ne hr _,
      fun k => by rw [State.reg_setReg_same, BitVec.getLsbD_or], s.setReg_frame x _⟩
  case and =>
    exact ⟨_, exec_andReg x y s, fun r hr => s.reg_setReg_of_ne hr _,
      fun k => by rw [State.reg_setReg_same, BitVec.getLsbD_and], s.setReg_frame x _⟩
  case xor =>
    exact ⟨_, exec_xorReg x y s, fun r hr => s.reg_setReg_of_ne hr _,
      fun k => by rw [State.reg_setReg_same, BitVec.getLsbD_xor], s.setReg_frame x _⟩

/-- Settles O36: one register write of the presented byte under a mask. -/
theorem randomIsMasked : Obligations.RandomIsMasked := by
  intro x nn s
  exact ⟨_, exec_rnd x nn s, fun r hr => s.reg_setReg_of_ne hr _,
    fun k => by rw [State.reg_setReg_same, BitVec.getLsbD_and], s.setReg_frame x _⟩

/-- Settles O31: the result and then the flag, which are the sum and the carry. -/
theorem addRegistersCarry : Obligations.AddRegistersCarry := by
  intro x y s
  refine ⟨_, exec_addReg x y s, fun r => ?_, s.setResultThenFlag_frame x _ _⟩
  rw [State.reg_setResultThenFlag, flagByte_carryFlag, byte_add]

/-- Settles O32: the result and then the flag, which are the difference and the not-borrow of the operands in their
order. -/
theorem subtractNotBorrow : Obligations.SubtractNotBorrow := by
  intro x y s
  refine ⟨⟨_, exec_sub x y s, fun r => ?_, s.setResultThenFlag_frame x _ _⟩,
    ⟨_, exec_subn x y s, fun r => ?_, s.setResultThenFlag_frame x _ _⟩⟩
  all_goals rw [State.reg_setResultThenFlag, flagByte_notBorrowFlag, byte_sub]

/-- Settles O33: the flag and then the shifted register, which with x = F is the flag and leaves nothing. -/
theorem shiftRightOne : Obligations.ShiftRightOne := by
  intro x y s v hv
  refine ⟨_, exec_shr x y s, fun r => ?_, (s.shiftSource_frame x y).trans (State.shiftReg_frame _ x _ _)⟩
  rw [s.reg_shift x y hv, flagByte_shiftRight_one, flagByte_shiftedOutLow, byte_shiftRight_one]

/-- Settles O34: the flag and then the shifted register, which with x = F is the flag doubled. -/
theorem shiftLeftOne : Obligations.ShiftLeftOne := by
  intro x y s v hv
  refine ⟨_, exec_shl x y s, fun r => ?_, (s.shiftSource_frame x y).trans (State.shiftReg_frame _ x _ _)⟩
  rw [s.reg_shift x y hv, flagByte_shiftedOutHigh_shiftLeft_one, flagByte_shiftedOutHigh, byte_shiftLeft_one]

theorem ChangesOnly.halted_eq {parts : List Part} {s t : State} (h : ChangesOnly parts s t) (hp : .latch ∉ parts) :
    t.halted = s.halted := by
  obtain ⟨hhalted, -⟩ := h.2 .latch hp
  exact hhalted

/-- Settles O35: O31 to O34 read at VF and at `x`, which differ here. -/
theorem flagLaws : Obligations.FlagLaws := by
  intro x y s a b hx hvy rfl rfl
  have hlt := (s.reg x).isLt
  have hlt' := (s.reg y).isLt
  have hv : s.reg x = if s.config.shiftUsesVy then s.reg y else s.reg x := by simp [hvy]
  have hF := Ne.symm hx
  refine ⟨?add, ?sub, ?subn, ?shr, ?shl⟩
  case add =>
    obtain ⟨t, ht, hreg, hframe⟩ := addRegistersCarry x y s
    refine ⟨t, ht, (hreg _).trans (if_pos rfl), ?_, hframe.halted_eq (by decide)⟩
    rw [hreg, if_neg hx, if_pos rfl, BitVec.toNat_ofNat]
    omega
  case sub =>
    obtain ⟨⟨t, ht, hreg, hframe⟩, -⟩ := subtractNotBorrow x y s
    refine ⟨t, ht, (hreg _).trans (if_pos rfl), ?_, hframe.halted_eq (by decide)⟩
    rw [hreg, if_neg hx, if_pos rfl, ← byte_sub, BitVec.toNat_sub]
    split <;> omega
  case subn =>
    obtain ⟨-, t, ht, hreg, hframe⟩ := subtractNotBorrow x y s
    refine ⟨t, ht, (hreg _).trans (if_pos rfl), ?_, hframe.halted_eq (by decide)⟩
    rw [hreg, if_neg hx, if_pos rfl, ← byte_sub, BitVec.toNat_sub]
    split <;> omega
  case shr =>
    obtain ⟨t, ht, hreg, -⟩ := shiftRightOne x y s _ hv
    refine ⟨t, ht, ?_, ?_⟩
    · rw [hreg, if_neg hF, if_pos rfl, BitVec.toNat_ofNat]
      omega
    · rw [hreg, if_pos rfl, if_neg hx, BitVec.toNat_ofNat]
      omega
  case shl =>
    obtain ⟨t, ht, hreg, -⟩ := shiftLeftOne x y s _ hv
    refine ⟨t, ht, ?_, ?_⟩
    · rw [hreg, if_neg hF, if_pos rfl, BitVec.toNat_ofNat]
      omega
    · rw [hreg, if_pos rfl, if_neg hx, BitVec.toNat_ofNat]
      omega

end Sys2Proof.Machine
end

section
/-! The index register and memory: the loads of `I`, the stores and loads in bounds, and the range check that fails
(spec/43_index_memory.md). -/

namespace Sys2Proof.Machine

/-! ### The index register -/

theorem lowNibble_toNat (b : Byte) : (lowNibble b).toNat = b.toNat % 16 := by
  rw [lowNibble, BitVec.extractLsb'_toNat, Nat.shiftRight_zero]

theorem glyphAddress_toNat (d : Nibble) : (glyphAddress d).toNat = 0x50 + 5 * d.toNat := by
  have := d.isLt
  rw [glyphAddress, BitVec.toNat_ofNat]
  omega

theorem exec_ldI (nnn : Addr12) (s : State) : exec (.ldI nnn) s = .next (s.setIndex (addrOperand nnn)) := rfl

theorem exec_addI (x : Nibble) (s : State) :
    exec (.addI x) s = .next (s.setIndex (s.index + (s.reg x).setWidth 16)) := rfl

theorem exec_ldF (x : Nibble) (s : State) :
    exec (.ldF x) s = .next (s.setIndex (glyphAddress (lowNibble (s.reg x)))) := rfl

/-- Settles O37: three writes of `I`, each with the value of its operand. -/
theorem indexWrites : Obligations.IndexWrites := by
  intro nnn x s
  refine ⟨⟨_, exec_ldI nnn s, addrOperand_toNat nnn, s.setIndex_frame _⟩,
    ⟨_, exec_addI x s, ?sum, s.setIndex_frame _⟩, ⟨_, exec_ldF x s, ?glyph, s.setIndex_frame _⟩⟩
  case sum => rw [State.setIndex_index, BitVec.toNat_add, BitVec.toNat_setWidth_of_le (by decide)]
  case glyph => rw [State.setIndex_index, glyphAddress_toNat, lowNibble_toNat]

/-! ### In bounds -/

theorem exec_ldB_of_bounds (x : Nibble) {s : State} (h : s.index.toNat + 2 ≤ 4095) :
    exec (.ldB x) s = .next (s.storeBytes s.index.toNat (bcdDigits (s.reg x))) :=
  congrArg _ (s.checkRange_ok (by rw [State.base_eq]; omega) _)

theorem exec_stRegs_of_bounds {x : Nibble} {s : State} (h : s.index.toNat + x.toNat ≤ 4095) :
    exec (.stRegs x) s = .next (s.storeBytes s.index.toNat (s.regsUpTo x)) :=
  congrArg _ (s.checkRange_ok (by rw [State.base_eq]; omega) _)

theorem exec_ldRegs_of_bounds {x : Nibble} {s : State} (h : s.index.toNat + x.toNat ≤ 4095) :
    exec (.ldRegs x) s = .next (s.loadRegs s.index.toNat x) :=
  congrArg _ (s.checkRange_ok (by rw [State.base_eq]; omega) _)

theorem State.byteAt_storeBytes_add {s : State} (hwf : s.mem.wf = true) {a k : Nat} {bs : List Byte}
    (hk : k < bs.length) (ha : a + k ≤ 4095) : (s.storeBytes a bs).byteAt (a + k) = bs.getD k 0#8 := by
  rw [State.byteAt_storeBytes hwf, if_pos (by omega), Nat.add_sub_cancel_left]

theorem State.byteAt_storeBytes_of_outside {s : State} (hwf : s.mem.wf = true) {a c : Nat} {bs : List Byte}
    (hc : c < a ∨ a + bs.length ≤ c) : (s.storeBytes a bs).byteAt c = s.byteAt c := by
  rw [State.byteAt_storeBytes hwf, if_neg (by omega)]

/-- Settles O38: the three digits are the stored bytes. -/
theorem bcdStored : Obligations.BcdStored := by
  intro x s hwf hbound
  have hlt := (s.reg x).isLt
  have hlen : (bcdDigits (s.reg x)).length = 3 := rfl
  have hdigit : ∀ k, k < 3 → (s.storeBytes s.index.toNat (bcdDigits (s.reg x))).byteAt (s.index.toNat + k) =
      (bcdDigits (s.reg x)).getD k 0#8 :=
    fun k hk => State.byteAt_storeBytes_add hwf (by omega) (by omega)
  refine ⟨_, exec_ldB_of_bounds x hbound, ?hundreds, ?tens, ?ones,
    fun c hc => State.byteAt_storeBytes_of_outside hwf (by omega), s.storeBytes_frame _ _⟩
  case hundreds => exact (congrArg BitVec.toNat (hdigit 0 (by decide))).trans (Nat.mod_eq_of_lt (by omega))
  case tens => exact (congrArg BitVec.toNat (hdigit 1 (by decide))).trans (Nat.mod_eq_of_lt (by omega))
  case ones => exact (congrArg BitVec.toNat (hdigit 2 (by decide))).trans (Nat.mod_eq_of_lt (by omega))

/-- Settles O39: the stored bytes are the registers in their order. -/
theorem registersStored : Obligations.RegistersStored := by
  intro x s hwf hbound
  refine ⟨_, exec_stRegs_of_bounds hbound, fun r hr => ?_, fun c hc => ?_, s.storeBytes_frame _ _⟩
  · rw [State.byteAt_storeBytes_add hwf (by rw [State.regsUpTo_length]; omega) (by omega), State.regsUpTo_getD s x hr,
      BitVec.ofNat_toNat, BitVec.setWidth_eq]
  · exact State.byteAt_storeBytes_of_outside hwf (by rw [State.regsUpTo_length]; omega)

/-- Settles O40: the loaded registers are the bytes in their order. -/
theorem registersLoaded : Obligations.RegistersLoaded := by
  intro x s hbound
  exact ⟨_, exec_ldRegs_of_bounds hbound, s.reg_loadRegs s.index.toNat x, s.loadRegs_frame _ x⟩

/-- Settles O41: O39 and then O40, at the same addresses since the store keeps `I`. -/
theorem storeThenLoadRestores : Obligations.StoreThenLoadRestores := by
  intro x s other hwf hbound
  obtain ⟨t, ht, hbytes, -, -, hkeeps⟩ := registersStored x s hwf hbound
  have hindex : t.index = s.index := hkeeps .index (by decide)
  obtain ⟨u, hu, hregs, -, hkeeps'⟩ := registersLoaded x { t with v := other } (by simpa only [hindex] using hbound)
  have hindex' : u.index = t.index := hkeeps' .index (by decide)
  refine ⟨t, u, ht, hu, hindex'.trans hindex, fun r hr => ?_⟩
  rw [hregs, if_pos hr, ← hbytes r hr, ← hindex]
  rfl

/-- Settles O43: the fetch reads V0 and V1, which O39 puts at `pc` and `pc+1`. -/
theorem storedCodeIsFetched : Obligations.StoredCodeIsFetched := by
  intro x s hwf hpc hx hbound
  obtain ⟨t, ht, hbytes, -, -, hkeeps⟩ := registersStored x s hwf hbound
  have hkept : t.pc = s.pc := hkeeps .pc (by decide)
  have hpc' : t.pc = s.index := hkept.trans hpc.symm
  refine ⟨t, ht, ?_⟩
  rw [fetch_of_pc_le (by rw [hpc']; omega), hpc', ← hbytes 0x0#4 (Nat.zero_le _), ← hbytes 0x1#4 hx]
  rfl

/-! ### Out of bounds -/

theorem checkRange_of_outside (s : State) {count : Nat} (hcount : 0 < count) (h : 4095 < s.index.toNat + count - 1)
    (body : State → State) :
    s.checkRange s.base count body = s.raise .memoryBound (boundInfo s.index.toNat) :=
  if_pos (by rw [State.base_eq]; omega)

/-- Settles O42: in each of the four the range check comes first and raises. -/
theorem rangeViolationHalts : Obligations.RangeViolationHalts := by
  intro i s h
  have hraise : exec i s = .next (s.raise .memoryBound (boundInfo s.index.toNat)) := by
    obtain ⟨x, rfl, hx⟩ | ⟨x, rfl, hx⟩ | ⟨x, rfl, hx⟩ | ⟨x, y, n, rows, rfl, rfl, hrows, hx⟩ := h
    · exact congrArg _ (checkRange_of_outside s (by decide) (by omega) _)
    · exact congrArg _ (checkRange_of_outside s (Nat.succ_pos _) (by omega) _)
    · exact congrArg _ (checkRange_of_outside s (Nat.succ_pos _) (by omega) _)
    · exact congrArg _ (checkRange_of_outside s hrows hx _)
  exact ⟨_, hraise, rfl, rfl, boundInfo_toNat s.index.isLt, s.raise_frame _ _⟩

end Sys2Proof.Machine
end

section
/-! The framebuffer instructions: the cleared screen, one sprite, and the same sprite twice (spec/44_display.md). -/

namespace Sys2Proof.Machine

theorem exec_cls (s : State) : exec .cls s = .next (s.setFb 0#2048) := rfl

/-- Settles O44: one write of the framebuffer, all of whose bits are 0. -/
theorem clearScreen : Obligations.ClearScreen := by
  intro s
  exact ⟨_, exec_cls s, fun x y _ _ => pixel_zero x y, s.setFb_frame _⟩

theorem exec_drw_of_bounds {x y n : Nibble} {s : State}
    (h : spriteRows n (s.originY y) = 0 ∨ s.index.toNat + spriteRows n (s.originY y) ≤ 4096) :
    exec (.drw x y n) s = .next ((s.setFb (s.drawn x y n).fb).setFlag (s.drawn x y n).hit) :=
  congrArg _ (if_neg (by rw [State.base_eq]; omega))

/-- The sprite on the screen, and the collision, of a draw of any size: its rows do not leave the screen. -/
theorem drawn_spec (s : State) (x y n : Nibble) :
    (∀ px py, px < 64 → py < 32 → pixel (s.drawn x y n).fb px py =
      (pixel s.fb px py ^^
        spriteBit s.mem s.index.toNat (s.originX x) (s.originY y) (spriteRows n (s.originY y)) px py)) ∧
    ((s.drawn x y n).hit = true ↔ ∃ px py, px < 64 ∧ py < 32 ∧
      spriteBit s.mem s.index.toNat (s.originX x) (s.originY y) (spriteRows n (s.originY y)) px py = true ∧
        pixel s.fb px py = true) := by
  have hrows := spriteRows_le n (y0 := s.originY y) (Nat.mod_lt _ (by decide))
  obtain ⟨hpixel, hhit⟩ := drawSprite_spec s.mem s.base (s.originX x) (s.originY y) _ hrows ⟨s.fb, false⟩
  simp only [Bool.false_eq_true, false_or] at hhit
  exact ⟨hpixel, hhit⟩

theorem State.reg_setFlag_F (s : State) (b : Bool) : (s.setFlag b).reg 0xF#4 = flagByte b :=
  (s.reg_setFlag b regF).trans (if_pos rfl)

theorem State.reg_setFlag_of_ne (s : State) {r : Nibble} (h : r ≠ 0xF#4) (b : Bool) : (s.setFlag b).reg r = s.reg r :=
  (s.reg_setFlag b r).trans (if_neg h)

/-- Settles O45: the range check passes, and the drawn sprite is that of `drawn_spec`. -/
theorem drawFlipsPixels : Obligations.DrawFlipsPixels := by
  rintro x y n s x0 y0 rows rfl rfl hrows hbound
  have hdrawn : spriteRows n (s.originY y) = rows := hrows.symm
  obtain ⟨hpixel, hhit⟩ := drawn_spec s x y n
  rw [hdrawn] at hhit
  simp only [hdrawn] at hpixel
  have hexec := exec_drw_of_bounds (x := x) (y := y) (n := n) (s := s) (by rw [hdrawn]; omega)
  refine ⟨_, hexec, hpixel, ?hit, ?miss, fun r hr => State.reg_setFlag_of_ne _ hr _, s.setFb_setFlag_frame _ _⟩
  case hit =>
    intro hex
    rw [State.reg_setFlag_F, hhit.mpr hex]
    rfl
  case miss =>
    intro hall
    have hmiss : (s.drawn x y n).hit = false := by
      rw [Bool.eq_false_iff]
      intro hcol
      obtain ⟨px, py, hpx, hpy, hbit, hset⟩ := hhit.mp hcol
      exact absurd hset (by rw [hall px py hpx hpy hbit]; decide)
    rw [State.reg_setFlag_F, hmiss]
    rfl

theorem spriteBit_congr {m m' : Memory} (h : ∀ a, m'.read a = m.read a) (a x0 y0 rows px py : Nat) :
    spriteBit m' a x0 y0 rows px py = spriteBit m a x0 y0 rows px py := by
  rw [spriteBit, spriteBit, h]

/-- Settles O46: O45 twice; the first draw leaves `I`, memory and the two registers, so the same bits flip again, and on
a clear screen it has set exactly those. -/
theorem drawTwiceRestores : Obligations.DrawTwiceRestores := by
  intro x y n s x0 y0 rows hx hy hx0 hy0 hrows hbound
  obtain ⟨t, ht, hpixel, -, -, hregs, -, hkeeps⟩ := drawFlipsPixels x y n s x0 y0 rows hx0 hy0 hrows hbound
  have hindex : t.index = s.index := hkeeps .index (by decide)
  have hbit : ∀ px py,
      spriteBit t.mem t.index.toNat x0 y0 rows px py = spriteBit s.mem s.index.toNat x0 y0 rows px py := by
    rw [hindex]
    exact spriteBit_congr (hkeeps .mem (by decide)) _ x0 y0 rows
  obtain ⟨u, hu, hpixel', hhit, hmiss, -⟩ := drawFlipsPixels x y n t x0 y0 rows (by rw [hregs x hx, hx0])
    (by rw [hregs y hy, hy0]) hrows (by rw [hindex]; exact hbound)
  simp only [hbit] at hpixel' hhit hmiss
  refine ⟨t, u, ht, hu, fun px py hpx hpy => ?_, fun hclear => ⟨fun hF => ?_, ?_⟩⟩
  · rw [hpixel' px py hpx hpy, hpixel px py hpx hpy, Bool.xor_assoc, Bool.xor_self, Bool.xor_false]
  · by_contra hnone
    rw [hmiss fun px py hpx hpy hb => absurd ⟨px, py, hpx, hpy, hb⟩ hnone] at hF
    exact absurd hF (by decide)
  · rintro ⟨px, py, hpx, hpy, hb⟩
    exact hhit ⟨px, py, hpx, hpy, hb, by rw [hpixel px py hpx hpy, hclear px py hpx hpy, hb]; rfl⟩

end Sys2Proof.Machine
end

section
/-! Timers and keys: the transfers, the skips, the key wait, and ticks taken one by one (spec/45_timers_keys.md,
spec/60_exceptions.md section 4). -/

namespace Sys2Proof.Machine

/-! ### Transfers and key skips -/

theorem exec_ldVxDt (x : Nibble) (s : State) : exec (.ldVxDt x) s = .next (s.setReg x s.dt) := rfl

theorem exec_ldDtVx (x : Nibble) (s : State) : exec (.ldDtVx x) s = .next (s.setDt (s.reg x)) := rfl

theorem exec_ldStVx (x : Nibble) (s : State) : exec (.ldStVx x) s = .next (s.setSt (s.reg x)) := rfl

/-- Settles O47: one write each, and the frame of the last has no sound in it. -/
theorem timerTransfers : Obligations.TimerTransfers := by
  intro x s
  exact ⟨⟨_, exec_ldVxDt x s, fun r => s.reg_setReg x r _, s.setReg_frame x _⟩,
    ⟨_, exec_ldDtVx x s, rfl, s.setDt_frame _⟩, ⟨_, exec_ldStVx x s, rfl, s.setSt_frame _⟩⟩

theorem exec_skp (x : Nibble) (s : State) :
    exec (.skp x) s = .next (s.skipIf (s.keyHeld (lowNibble (s.reg x)))) := rfl

theorem exec_sknp (x : Nibble) (s : State) :
    exec (.sknp x) s = .next (s.skipIf (!s.keyHeld (lowNibble (s.reg x)))) := rfl

theorem keyHeld_lowNibble (s : State) (b : Byte) : s.keyHeld (lowNibble b) = s.inp.keys.getLsbD (b.toNat % 16) := by
  rw [State.keyHeld, lowNibble_toNat]

/-- Settles O48: each skip is `skipIf` of the key line of the low nibble. -/
theorem keySkips : Obligations.KeySkips := by
  rintro x s held rfl
  rw [← keyHeld_lowNibble]
  exact ⟨⟨_, exec_skp x s, s.skipIf_pc Iff.rfl, s.skipIf_frame _⟩,
    ⟨_, exec_sknp x s, s.skipIf_pc (by simp), s.skipIf_frame _⟩⟩

/-! ### The key wait -/

theorem exec_ldK (x : Nibble) (s : State) : exec (.ldK x) s = .next (s.waitKey x) := rfl

/-- Settles O49: some key is lowest, and the wait writes its number. -/
theorem keyWaitReturnsLowest : Obligations.KeyWaitReturnsLowest := by
  intro x s hkeys
  obtain ⟨hnone, -⟩ | ⟨k, hk, hwait⟩ := s.waitKey_cases x
  · exact absurd (s.lowestKey_none_iff.mp hnone) hkeys
  · obtain ⟨hlt, hheld, hlower⟩ := State.lowestKey_spec hk
    refine ⟨_, exec_ldK x s, ⟨k, hlt, hheld, hlower, fun r => ?_⟩, ?_⟩ <;> rw [hwait]
    · exact s.reg_setReg x r _
    · exact s.setReg_frame x _

theorem exec_ldK_of_no_key (x : Nibble) {s : State} (h : s.inp.keys = 0#16) :
    exec (.ldK x) s = .next (s.setPc (s.pc - 2#16)) := by
  rw [exec_ldK, State.waitKey, s.lowestKey_none_iff.mpr h]

theorem State.advance_setPc_sub (s : State) : s.advance.setPc (s.advance.pc - 2#16) = s := by
  rw [State.advance_pc, BitVec.add_sub_cancel]
  rfl

/-- Settles O50: the stall takes back the advance, so the step leaves what the ticks left. -/
theorem keyWaitStalls : Obligations.KeyWaitStalls := by
  refine ⟨fun x s hkeys => ⟨_, exec_ldK_of_no_key x hkeys, rfl, s.setPc_frame _⟩, ?_⟩
  intro x s w hrst hrun hpc hkeys hw hdec
  subst hw
  have hword : decode (s.wordAt s.pc.toNat) = .instr (.ldK x) := hdec
  rw [step_of_fetched hrst hrun hpc, hword, execDecoded_instr, exec_ldK_of_no_key x (s := s.applyTicks.advance) hkeys,
    State.advance_setPc_sub, thenNext_next, State.present, if_neg (by simp [State.applyTicks, hrun])]
  rfl

/-! ### Ticks one by one -/

theorem countDown_of_toNat_eq {b c : Byte} {k l : Nat} (h : b.toNat - k = c.toNat - l) :
    countDown b k = countDown c l :=
  BitVec.eq_of_toNat_eq (by rw [countDown_toNat, countDown_toNat, h])

theorem State.ticks_zero (s : State) : s.ticks 0 0 = s := by
  have hcount : ∀ b : Byte, countDown b 0 = b := fun b => BitVec.eq_of_toNat_eq (countDown_toNat b 0)
  simp [State.ticks, hcount, liveTicks_eq]

theorem State.ticks_tickDT (s : State) (k m : Nat) : s.tickDT.ticks k m = s.ticks (k + 1) m := by
  have hdt : countDown s.tickDT.dt k = countDown s.dt (k + 1) :=
    countDown_of_toNat_eq (by rw [State.tickDT_dt_toNat]; omega)
  by_cases h : s.dt = 0#8
  · rw [State.tickDT_of_dt_eq_zero h] at hdt ⊢
    rw [State.ticks, State.ticks, hdt]
  · rw [State.tickDT_of_dt_ne_zero h] at hdt ⊢
    rw [State.ticks, State.ticks, hdt]
    rfl

theorem State.ticks_tickST (s : State) (k m : Nat) : s.tickST.ticks k m = s.ticks k (m + 1) := by
  have hst : countDown s.tickST.st m = countDown s.st (m + 1) :=
    countDown_of_toNat_eq (by rw [State.tickST_st_toNat]; omega)
  have hsounds : s.tickST.sounds + liveTicks s.tickST.st m = s.sounds + liveTicks s.st (m + 1) := by
    rw [State.tickST_sounds, liveTicks_eq, liveTicks_eq, State.tickST_st_toNat]
    split
    next h => simp [h]
    next h =>
      have : s.st.toNat ≠ 0 := fun e => h (BitVec.eq_of_toNat_eq e)
      omega
  by_cases h : s.st = 0#8
  · rw [State.tickST_of_st_eq_zero h] at hst hsounds ⊢
    rw [State.ticks, State.ticks, hst, hsounds]
  · rw [State.tickST_of_st_ne_zero h] at hst hsounds ⊢
    rw [State.ticks, State.ticks, hst, hsounds]
    rfl

/-- Settles O52, by induction on the list: a single tick before the joint ones is one more of them. -/
theorem ticksAreSingleSteps : Obligations.TicksAreSingleSteps := by
  intro l
  induction l with
  | nil => exact fun s => s.ticks_zero.symm
  | cons e l ih =>
    intro s
    cases e with
    | dt => rw [State.tickAll, ih, State.ticks_tickDT]; simp
    | st => rw [State.tickAll, ih, State.ticks_tickST]; simp

/-- Settles O53: by O52 the ticks are a count down of `DT`. -/
theorem delayTimerCountsDown : Obligations.DelayTimerCountsDown := by
  intro x y s l
  refine ⟨_, _, exec_ldDtVx x s, exec_ldVxDt y _, ?_⟩
  rw [State.reg_setReg_same, ticksAreSingleSteps, State.ticks_dt, countDown_toNat, State.setDt_dt]

end Sys2Proof.Machine
end
